-- ==== Sys2Proof/Config.lean ====
section
/-! DEFINITION. The implementation parameters of the block (00_scope.md rule R10) and its one open value.
Every size that depends on the symbol width is written by R10's formula from `symw`. -/

namespace Sys2Proof.Config

/-- `SYMW`, the symbol width in bits: 8 (R10). -/
abbrev symw : Nat := 8

/-- `NSYM = 2^SYMW`, the number of symbol values (R10). -/
abbrev nsym : Nat := 2 ^ symw

/-- `CHAR_BYTES = SYMW/8`, the bytes of one character in the table text (R10). -/
abbrev charBytes : Nat := symw / 8

/-- `FREQW`, the width of a frequency entry (R10). -/
abbrev freqw : Nat := 64

/-- `IFREQW = FREQW + SYMW`, the width of an internal-node frequency (R10, R126). -/
abbrev ifreqw : Nat := freqw + symw

/-- `MAXCODE = NSYM - 1`, the longest path in bits (R10). -/
abbrev maxcode : Nat := nsym - 1

/-- `NODE_CAP = 2*NSYM - 1`, the node arena's entries (R10). -/
abbrev nodeCap : Nat := 2 * nsym - 1

/-- `BB_CAP_BITS`, the bit buffer's capacity in bits (R10). -/
abbrev bbCapBits : Nat := 524288

/-- `OBUF_CAP`, the output symbol buffer's entries (R10). -/
abbrev obufCap : Nat := 4096

/-- `TERM_RESET`, the terminator after reset: OPEN in R10, R21 and R250 (92_eei_decisions.md D4, 93 U4). It has no
body, so nothing can be proved of its value and every claim holds for each value. DESIGN CHOICE, safe
(notes/assumptions/1.md). -/
opaque termReset : BitVec symw

end Sys2Proof.Config
end

