-- ==== Sys2Proof/Word.lean ====
section
/-! DEFINITION. The word types of the block and the tables indexed by a symbol (00_scope.md R11, R16; 10_state.md R20). -/

namespace Sys2Proof

/-- One unit of IN or OUT. -/
abbrev Byte := BitVec 8

/-- A symbol: a character value of `SYMW` bits (R16). -/
abbrev Sym := BitVec Config.symw

/-- A 64-bit register (R20, R36). -/
abbrev Reg := BitVec 64

/-- A command descriptor: one 128-bit word (30_encoding.md R70). -/
abbrev Descriptor := BitVec 128

/-- A node handle: an index into the node arena (R16, R23). -/
abbrev Handle := Nat

/-- A path (code word): bits in the order they are walked from the root (R12). -/
abbrev Path := List Bool

/-- One entry per symbol value, `NSYM` in all (R20). -/
abbrev SymTable (α : Type) := Vector α Config.nsym

theorem sym_toNat_lt (s : Sym) : s.toNat < Config.nsym := s.isLt

/-- Every symbol value once, in ascending order. -/
def allSyms : List Sym := (List.range Config.nsym).map (BitVec.ofNat Config.symw)

end Sys2Proof
end

