-- ==== Sys2Proof/Machine/Bits.lean ====
section
/-! DEFINITION. The order of bits within a byte (00_scope.md R12, 20_memory.md R51): bit `i` of a bit sequence is bit
`7 - (i mod 8)` of byte `i div 8`. -/

namespace Sys2Proof.Machine

/-- The bits of a byte in stream order: bit 7 first, bit 0 last (R51). -/
def byteBits (x : Byte) : List Bool :=
  [x.getLsbD 7, x.getLsbD 6, x.getLsbD 5, x.getLsbD 4, x.getLsbD 3, x.getLsbD 2, x.getLsbD 1, x.getLsbD 0]

/-- A byte sequence as bits (R51). -/
def bytesToBits (bs : List Byte) : List Bool := bs.flatMap byteBits

/-- The number whose binary digits these bits are, most significant first. -/
def bitsToNat (bits : List Bool) : Nat := bits.foldl (fun acc b => 2 * acc + b.toNat) 0

/-- The byte whose bit 7 is the first of (at most) eight bits; missing bits are 0 (R101). -/
def byteOfBits (bits : List Bool) : Byte :=
  BitVec.ofNat 8 (bitsToNat (bits ++ List.replicate (8 - bits.length) false))

/-- R101: `ceil(length/8)` bytes, eight bits each, the last filled up with zero bits. -/
def packBytes : List Bool → List Byte
  | b7 :: b6 :: b5 :: b4 :: b3 :: b2 :: b1 :: b0 :: rest =>
    byteOfBits [b7, b6, b5, b4, b3, b2, b1, b0] :: packBytes rest
  | [] => []
  | part => [byteOfBits part]

end Sys2Proof.Machine
end

