-- ==== Sys2Proof/Machine/State.lean ====
section
/-! DEFINITION. The state of the machine as plain data: the engine's architectural state (10_state.md R20 to R39), the
host's four streams (20_memory.md R56 to R59), the host's moves still to come (R55, R60), and the ways a step can stop.
Registers that are a view of other state (BB_LEN, NNODES, NLEAVES, STATUS, CT_V, CT_LEN, FREQ_V) are stored once, in
the element they describe, and read through Sys2Proof/Machine/Flags.lean (notes/assumptions/5.md). -/

namespace Sys2Proof.Machine

/-- An allocated record of the node arena (R23). A FREE record is a handle that the arena does not list, so the fields
of a FREE record, which R250 leaves unspecified, do not exist (notes/assumptions/4.md). -/
inductive Node where
  /-- KIND = LEAF, with its SYM. -/
  | leaf (sym : Sym)
  /-- KIND = INTERNAL, with LEFT and RIGHT, each a handle or NONE. -/
  | internal (left right : Option Handle)
deriving DecidableEq, Repr

/-- KIND of a record (R23). -/
inductive NodeKind where
  | free
  | leaf
  | internal
deriving DecidableEq, Repr

/-- ERRCODE by name (60_exceptions.md R220); `errNumber` in Sys2Proof/Machine/Flags.lean gives the number. Codes 11 to 255
are never written (R220), and the type has none. -/
inductive ErrCode where
  /-- 0, NONE. -/
  | noError
  /-- 1, raised by ENCODE and CT_READ. -/
  | alphabet
  /-- 2, raised by DECODE_BB and DECODE_STREAM. -/
  | malformed
  /-- 3, raised by ENCODE, BB_LOAD, TABLE_IMPORT, DECODE_BB and DECODE_STREAM. -/
  | truncation
  /-- 4, raised by DECODE_STREAM. -/
  | capacity
  /-- 5, raised by TABLE_IMPORT. -/
  | corruptTable
  /-- 6, raised by BUILD. -/
  | emptyAlphabet
  /-- 7, raised by BB_GET. -/
  | range
  /-- 8, raised by any descriptor that R74 does not find valid. -/
  | illegal
  /-- 9, raised by the five commands that need a tree. -/
  | noTree
  /-- 10, raised by BB_APPEND, ENCODE, BB_LOAD, TABLE_IMPORT, DECODE_BB and DECODE_STREAM. -/
  | resource
deriving DecidableEq, Repr

/-- The code table: `some path` where CT_V[s] = 1, with CT_LEN[s] and CT_PATH[s] in the path (R25). -/
abbrev CodeTable := SymTable (Option Path)

/-- The frequency table: `some FREQ[s]` where FREQ_V[s] = 1 (R22). -/
abbrev FreqTable := SymTable (Option (BitVec Config.freqw))

/-- The engine: every element of R20's table. -/
structure Engine where
  /-- TERM (R21). -/
  term : Sym
  /-- FREQ_V and FREQ (R22). -/
  freq : FreqTable
  /-- NODE: the allocated records, handle `h` being the `h`-th (R23). -/
  nodes : List Node
  /-- F[h], written by BUILD only (R23); an entry not listed reads 0 (notes/assumptions/3.md). -/
  nodeF : List (BitVec Config.ifreqw)
  /-- ROOT (R24). -/
  root : Handle
  /-- CT_V, CT_LEN and CT_PATH (R25). -/
  ct : CodeTable
  /-- BB_BITS[0 .. BB_LEN-1]; its length is BB_LEN (R27). -/
  bb : List Bool
  /-- OBUF (R28; notes/assumptions/2.md). -/
  obuf : List Sym
  /-- STATUS[0] (R30). -/
  err : Bool
  /-- STATUS[1] (R30). -/
  drop : Bool
  /-- STATUS[2] (R24, R30). -/
  treeValid : Bool
  /-- STATUS[3] (R30). -/
  synTerm : Bool
  /-- ERRCODE[7:0] (R31). -/
  errCode : ErrCode
  /-- ERR_OP[7:0] (R31). -/
  errOp : BitVec 8
  /-- ERR_INFO0 (R31). -/
  errInfo0 : Reg
  /-- ERR_INFO1 (R31). -/
  errInfo1 : Reg
  /-- RESULT (R32). -/
  result : Reg
  /-- TBL_BYTES (R33). -/
  tblBytes : Reg
  /-- IN_COUNT (R34). -/
  inCount : Reg
  /-- OUT_COUNT (R34). -/
  outCount : Reg
  /-- SYM_COUNT (R34). -/
  symCount : Reg
deriving DecidableEq, Repr

/-- What the engine meets after the last unit of a stream (20_memory.md R56, R60 (b); 70_reset_and_hazards.md R259). -/
inductive StreamEnd where
  /-- The host has signalled end of data: a read returns EOF. -/
  | eof
  /-- The host breaks its duty: it neither supplies a unit nor signals end of data (R259, 93 U15). -/
  | withheld
deriving DecidableEq, Repr

/-- A stream from host to engine: the units not yet consumed, head first, and what follows them. -/
structure InStream (α : Type) where
  units : List α
  tail : StreamEnd
deriving DecidableEq, Repr

/-- One move of the host between commands: R60's interactions (a), (b), (d), (e) and (f). -/
inductive HostAction where
  /-- (a) Write a descriptor to the command port. -/
  | command (d : Descriptor)
  /-- (b), (e) Append bytes to IN and say what follows them. -/
  | supplyIn (bytes : List Byte) (tail : StreamEnd)
  /-- (b) Append symbols to SYMIN and say what follows them. -/
  | supplySym (syms : List Sym) (tail : StreamEnd)
  /-- (d) Read the register port at a byte offset (R36). -/
  | readRegister (offset : Nat)
  /-- (e) Consume bytes from the head of IN. -/
  | consumeIn (count : Nat)
  /-- (f) Power-on or hardware reset (R251). -/
  | assertReset
deriving DecidableEq, Repr

/-- The machine: the engine and what stands at its ports. -/
structure State where
  eng : Engine
  /-- IN (R56). -/
  inp : InStream Byte
  /-- SYMIN (R58). -/
  symIn : InStream Sym
  /-- OUT: every byte written so far, oldest first (R57). -/
  out : List Byte
  /-- SYMOUT: every symbol written so far, oldest first (R59). -/
  symOut : List Sym
  /-- The host's moves still to come, next first (R38, R55; notes/assumptions/7.md). -/
  host : List HostAction
  /-- The values the register port has returned, oldest first (R60 (d)). -/
  readData : List Reg
deriving DecidableEq, Repr

/-- Why the machine stops: a stuck state (70_reset_and_hazards.md R259, 93 U15). No error of the block is a fault: an
error is taken by error entry and the machine goes on (60_exceptions.md R224). -/
inductive Fault where
  /-- BB_LOAD, TABLE_IMPORT or DECODE_STREAM waits on `InRead()` and the host never answers. Safe: the engine has no
  enabled step there, and no claim about a later state can be proved. -/
  | stuckIn
  /-- ENCODE waits on `SymRead()` and the host never answers. Safe, as `stuckIn`. -/
  | stuckSymIn
deriving DecidableEq, Repr

/-- Why the model gives no meaning. -/
inductive Refusal where
  /-- Raised by an arm of `exec` whose instruction has no meaning yet; safe. No arm of this model raises it. -/
  | notModelled (mnemonic : String)
deriving DecidableEq, Repr

/-- The empty frequency table (R22, R250). -/
def emptyFreq : FreqTable := Vector.replicate Config.nsym none

/-- The code table with no entry (R24, R250). -/
def emptyCt : CodeTable := Vector.replicate Config.nsym none

/-- 70_reset_and_hazards.md R250: the engine after a power-on reset, a hardware reset or the RESET command. TERM holds
the open parameter TERM_RESET; OBUF and F, which R250 leaves unspecified, hold the values of notes/assumptions/2.md and
notes/assumptions/3.md (DESIGN CHOICE). -/
def Engine.reset : Engine where
  term := Config.termReset
  freq := emptyFreq
  nodes := []
  nodeF := []
  root := 0
  ct := emptyCt
  bb := []
  obuf := []
  err := false
  drop := false
  treeValid := false
  synTerm := false
  errCode := .noError
  errOp := 0#8
  errInfo0 := 0#64
  errInfo1 := 0#64
  result := 0#64
  tblBytes := 0#64
  inCount := 0#64
  outCount := 0#64
  symCount := 0#64

/-- The machine right after reset: the engine of R250, waiting for the first descriptor (R252); no unit on any stream,
and none to come before the host supplies it (DESIGN CHOICE, notes/assumptions/6.md); no move of the host. -/
def State.reset : State where
  eng := Engine.reset
  inp := { units := [], tail := .eof }
  symIn := { units := [], tail := .eof }
  out := []
  symOut := []
  host := []
  readData := []

end Sys2Proof.Machine
end

