-- ==== Sys2Proof/Machine/Flags.lean ====
section
/-! DEFINITION. STATUS and its flags, the registers that are views of other state, and the host's register port
(10_state.md R22 to R39). -/

namespace Sys2Proof.Machine

/-- An entry of a table indexed by a symbol. -/
def symGet {α : Type} (t : SymTable α) (s : Sym) : α := t[s.toNat]'(sym_toNat_lt s)

/-- A table with one entry replaced. -/
def symPut {α : Type} (t : SymTable α) (s : Sym) (x : α) : SymTable α := t.set s.toNat x (sym_toNat_lt s)

/-- R220: the number of an error code. -/
def errNumber : ErrCode → BitVec 8
  | .noError => 0#8
  | .alphabet => 1#8
  | .malformed => 2#8
  | .truncation => 3#8
  | .capacity => 4#8
  | .corruptTable => 5#8
  | .emptyAlphabet => 6#8
  | .range => 7#8
  | .illegal => 8#8
  | .noTree => 9#8
  | .resource => 10#8

/-- R30: STATUS, bits 63:4 reading 0. -/
def Engine.status (e : Engine) : Reg :=
  (BitVec.ofBool e.synTerm ++ BitVec.ofBool e.treeValid ++ BitVec.ofBool e.drop ++ BitVec.ofBool e.err).setWidth 64

/-- FREQ_V[s] (R22). -/
def Engine.freqV (e : Engine) (s : Sym) : Bool := (symGet e.freq s).isSome

/-- FREQ[s] (R22); an absent entry reads 0, as FREQ_CLEAR and reset leave it. -/
def Engine.freqAt (e : Engine) (s : Sym) : BitVec Config.freqw := (symGet e.freq s).getD 0

/-- CT_V[s] (R25). -/
def Engine.ctV (e : Engine) (s : Sym) : Bool := (symGet e.ct s).isSome

/-- CT_PATH[s], its CT_LEN[s] bits in walk order (R25); empty for an absent entry (notes/assumptions/21.md). -/
def Engine.ctPath (e : Engine) (s : Sym) : Path := (symGet e.ct s).getD []

/-- CT_LEN[s] (R25); 0 for an absent entry (notes/assumptions/21.md). -/
def Engine.ctLen (e : Engine) (s : Sym) : Nat := (e.ctPath s).length

/-- Whether a record is a LEAF. -/
def isLeaf : Node → Bool
  | .leaf _ => true
  | .internal _ _ => false

/-- KIND[h] (R23): a handle the arena does not list is FREE. -/
def Engine.kindAt (e : Engine) (h : Handle) : NodeKind :=
  match e.nodes[h]? with
  | none => .free
  | some (.leaf _) => .leaf
  | some (.internal _ _) => .internal

/-- The number of LEAF records (R24). -/
def countLeaves (nodes : List Node) : Nat := nodes.countP isLeaf

/-- NLEAVES (R24). -/
def Engine.nleaves (e : Engine) : Reg := BitVec.ofNat 64 (countLeaves e.nodes)

/-- NNODES (R24). -/
def Engine.nnodes (e : Engine) : Reg := BitVec.ofNat 64 e.nodes.length

/-- BB_LEN (R27). -/
def Engine.bbLen (e : Engine) : Reg := BitVec.ofNat 64 e.bb.length

/-- BB_BITS[i] (R27): 0 at and above BB_LEN. -/
def Engine.bbBit (e : Engine) (i : Nat) : Bool := e.bb.getD i false

/-- R36: the value of the register port at a byte offset; 0 at every other offset
(notes/assumptions/15.md). -/
def readReg (e : Engine) (offset : Nat) : Reg :=
  match offset with
  | 0x00 => e.status
  | 0x08 => (errNumber e.errCode).setWidth 64
  | 0x10 => e.errOp.setWidth 64
  | 0x18 => e.errInfo0
  | 0x20 => e.errInfo1
  | 0x28 => e.term.setWidth 64
  | 0x30 => e.bbLen
  | 0x38 => e.result
  | 0x40 => e.nleaves
  | 0x48 => e.nnodes
  | 0x50 => BitVec.ofNat 64 e.root
  | 0x58 => e.tblBytes
  | 0x60 => e.inCount
  | 0x68 => e.outCount
  | 0x70 => e.symCount
  | 0x78 => BitVec.ofNat 64 Config.symw
  | 0x80 => BitVec.ofNat 64 Config.bbCapBits
  | 0x88 => BitVec.ofNat 64 Config.obufCap
  | _ => 0#64

end Sys2Proof.Machine
end

