-- ==== Sys2Proof/Syntax.lean ====
section
/-! DEFINITION. The commands of HCC-CMD v1: one constructor for each row of spec/opcode_table.json (30_encoding.md R73),
with the operands R73 says the row uses, assembled as R71 says. Every term is well formed: an operand's type holds
exactly the values its field admits (`Sys2Proof/WellFormed.lean` checks the descriptors, where a field can be wrong). -/

namespace Sys2Proof

/-- One command. Operand names are R73's: a symbol `t` or `s` (SYM), a count, index or capacity `n`, `i` or `cap`
(N), a frequency `v` (VAL), a bit `b` (VAL[0]). -/
inductive Instr where
  | nop
  /-- Decoded from OP alone (R76): the other 120 bits are ignored, so the term carries none of them
  (notes/assumptions/13.md). -/
  | reset
  /-- Decoded from OP alone (R76): the other 120 bits are ignored, so the term carries none of them. -/
  | errAck
  | setTerm (t : Sym)
  | freqClear
  | freqSet (s : Sym) (v : BitVec Config.freqw)
  | build
  | tableExport
  | tableImport (n : BitVec 32)
  | ctRead (s : Sym)
  | encode (n : BitVec 32)
  | decodeBb
  | decodeStream (cap : BitVec 32)
  | bbClear
  | bbAppend (b : Bool)
  | bbGet (i : BitVec 32)
  | bbEmit
  | bbLoad (n : BitVec 32)
deriving DecidableEq, Repr

end Sys2Proof
end

