-- ==== Sys2Proof/WellFormed.lean ====
section
/-! DEFINITION. Which descriptors are valid: the match and mask table of 30_encoding.md R74, at `SYMW = 8`, row by row.
`decode` (Sys2Proof/Decode.lean) checks the fields instead, in R74's order; the two are written from two different
places of the spec. -/

namespace Sys2Proof

/-- One row of R74's table: the bits the row fixes (`mask`) and the value they must have (`pattern`). -/
structure DescriptorRow where
  mnemonic : String
  pattern : Descriptor
  mask : Descriptor
deriving DecidableEq, Repr

/-- R74: a descriptor matches a row when the bits of the row's mask have the row's values. -/
def DescriptorRow.matches (r : DescriptorRow) (d : Descriptor) : Bool :=
  d &&& r.mask == r.pattern

/-- R74, the rows of the control and frequency commands. -/
def descriptorTableLow : List DescriptorRow := [
  ⟨"NOP",           0x00000000000000000000000000000000#128, 0xFFFFFFFFFFFFFFFFFFFFFFFFFFFFFFFF#128⟩,
  ⟨"RESET",         0x00000000000000000000000000000001#128, 0x000000000000000000000000000000FF#128⟩,
  ⟨"ERR_ACK",       0x00000000000000000000000000000002#128, 0x000000000000000000000000000000FF#128⟩,
  ⟨"SET_TERM",      0x00000000000000000000000000000003#128, 0xFFFFFFFFFFFFFFFFFFFFFFFFFF00FFFF#128⟩,
  ⟨"FREQ_CLEAR",    0x00000000000000000000000000000010#128, 0xFFFFFFFFFFFFFFFFFFFFFFFFFFFFFFFF#128⟩,
  ⟨"FREQ_SET",      0x00000000000000000000000000000011#128, 0x0000000000000000FFFFFFFFFF00FFFF#128⟩]

/-- R74, the rows of the tree, code-table and codec commands. -/
def descriptorTableMid : List DescriptorRow := [
  ⟨"BUILD",         0x00000000000000000000000000000020#128, 0xFFFFFFFFFFFFFFFFFFFFFFFFFFFFFFFF#128⟩,
  ⟨"TABLE_EXPORT",  0x00000000000000000000000000000021#128, 0xFFFFFFFFFFFFFFFFFFFFFFFFFFFFFFFF#128⟩,
  ⟨"TABLE_IMPORT",  0x00000000000000000000000000000022#128, 0xFFFFFFFFFFFFFFFF00000000FFFFFFFF#128⟩,
  ⟨"CT_READ",       0x00000000000000000000000000000023#128, 0xFFFFFFFFFFFFFFFFFFFFFFFFFF00FFFF#128⟩,
  ⟨"ENCODE",        0x00000000000000000000000000000030#128, 0xFFFFFFFFFFFFFFFF00000000FFFFFFFF#128⟩,
  ⟨"DECODE_BB",     0x00000000000000000000000000000031#128, 0xFFFFFFFFFFFFFFFFFFFFFFFFFFFFFFFF#128⟩,
  ⟨"DECODE_STREAM", 0x00000000000000000000000000000032#128, 0xFFFFFFFFFFFFFFFF00000000FFFFFFFF#128⟩]

/-- R74, the rows of the bit-buffer commands. -/
def descriptorTableHigh : List DescriptorRow := [
  ⟨"BB_CLEAR",      0x00000000000000000000000000000040#128, 0xFFFFFFFFFFFFFFFFFFFFFFFFFFFFFFFF#128⟩,
  ⟨"BB_APPEND",     0x00000000000000000000000000000041#128, 0xFFFFFFFFFFFFFFFEFFFFFFFFFFFFFFFF#128⟩,
  ⟨"BB_GET",        0x00000000000000000000000000000042#128, 0xFFFFFFFFFFFFFFFF00000000FFFFFFFF#128⟩,
  ⟨"BB_EMIT",       0x00000000000000000000000000000043#128, 0xFFFFFFFFFFFFFFFFFFFFFFFFFFFFFFFF#128⟩,
  ⟨"BB_LOAD",       0x00000000000000000000000000000044#128, 0xFFFFFFFFFFFFFFFF00000000FFFFFFFF#128⟩]

/-- R74's whole table, 18 rows. -/
def descriptorTable : List DescriptorRow :=
  descriptorTableLow ++ descriptorTableMid ++ descriptorTableHigh

/-- R74: a descriptor is valid when some row matches it. -/
def wellFormed (d : Descriptor) : Bool :=
  descriptorTable.any (fun r => r.matches d)

/-- R74 (1): OP is one of the 18 values of R73. -/
def knownOp (d : Descriptor) : Bool :=
  descriptorTable.any (fun r => d.extractLsb' 0 8 == r.pattern.extractLsb' 0 8)

end Sys2Proof
end

