-- ==== Sys2Proof/Decode.lean ====
section
/-! DEFINITION. Decoding a descriptor by its fields (30_encoding.md R70 to R76), total on all 2^128 words, refusing by
R74's reason; and after it the encoder (R77: unused fields 0), and the 16-byte carrier of 20_memory.md R52 (a). -/

namespace Sys2Proof

/-! ## Fields of the format D128 (R70) -/

/-- OP, `d[7:0]`. -/
def opField (d : Descriptor) : BitVec 8 := d.extractLsb' 0 8

/-- RSV, `d[15:8]`. -/
def rsvField (d : Descriptor) : BitVec 8 := d.extractLsb' 8 8

/-- SYM, `d[31:16]`. -/
def symField (d : Descriptor) : BitVec 16 := d.extractLsb' 16 16

/-- N, `d[63:32]`. -/
def nField (d : Descriptor) : BitVec 32 := d.extractLsb' 32 32

/-- VAL, `d[127:64]`. -/
def valField (d : Descriptor) : BitVec 64 := d.extractLsb' 64 64

/-- R71: the symbol operand, `d[16+SYMW-1:16]`. -/
def symOperand (d : Descriptor) : Sym := d.extractLsb' 16 Config.symw

/-- R71: the bit operand of BB_APPEND, `d[64]`. -/
def bitOperand (d : Descriptor) : Bool := d.getLsbD 64

/-! ## Validity (R74) -/

/-- Why a descriptor is illegal (R74). -/
inductive IllegalReason where
  /-- (1) OP is not in R73's table. -/
  | unknownOp
  /-- (2) RSV, or a field the opcode does not use, is not 0. -/
  | reservedField
  /-- (3) `SYM[15:SYMW]` is not 0. -/
  | symRange
deriving DecidableEq, Repr

/-- The reason's number, ERR_INFO1 of ILLEGAL (60_exceptions.md R221). -/
def reasonCode : IllegalReason → Reg
  | .unknownOp => 1
  | .reservedField => 2
  | .symRange => 3

/-- What a descriptor decodes to. -/
inductive Decoded where
  | ok (i : Instr)
  | illegal (r : IllegalReason)
deriving DecidableEq, Repr

/-- R74 (3): `SYM[15:SYMW] = 0`. -/
def symInRange (d : Descriptor) : Bool := symField d >>> Config.symw == 0#16

/-- R74 for a command that uses no operand: RSV, SYM, N and VAL are 0. -/
def decodePlain (d : Descriptor) (i : Instr) : Decoded :=
  if rsvField d == 0#8 && symField d == 0#16 && nField d == 0#32 && valField d == 0#64 then .ok i
  else .illegal .reservedField

/-- R74 for a command that uses SYM alone: RSV, N and VAL are 0, then SYM is in range. -/
def decodeSym (d : Descriptor) (i : Sym → Instr) : Decoded :=
  if rsvField d == 0#8 && nField d == 0#32 && valField d == 0#64 then
    if symInRange d then .ok (i (symOperand d)) else .illegal .symRange
  else .illegal .reservedField

/-- R74 for a command that uses SYM and VAL: RSV and N are 0, then SYM is in range. -/
def decodeSymVal (d : Descriptor) (i : Sym → BitVec 64 → Instr) : Decoded :=
  if rsvField d == 0#8 && nField d == 0#32 then
    if symInRange d then .ok (i (symOperand d) (valField d)) else .illegal .symRange
  else .illegal .reservedField

/-- R74 for a command that uses N alone: RSV, SYM and VAL are 0. -/
def decodeN (d : Descriptor) (i : BitVec 32 → Instr) : Decoded :=
  if rsvField d == 0#8 && symField d == 0#16 && valField d == 0#64 then .ok (i (nField d))
  else .illegal .reservedField

/-- R74 for BB_APPEND: RSV, SYM, N and `VAL[63:1]` are 0. -/
def decodeBit (d : Descriptor) (i : Bool → Instr) : Decoded :=
  if rsvField d == 0#8 && symField d == 0#16 && nField d == 0#32 && valField d >>> 1 == 0#64 then .ok (i (bitOperand d))
  else .illegal .reservedField

/-- R73, R74, R75, R76: the command of a descriptor, or the first of R74's checks that fails. -/
def decode (d : Descriptor) : Decoded :=
  match (opField d).toNat with
  | 0x00 => decodePlain d .nop
  | 0x01 => .ok .reset
  | 0x02 => .ok .errAck
  | 0x03 => decodeSym d .setTerm
  | 0x10 => decodePlain d .freqClear
  | 0x11 => decodeSymVal d .freqSet
  | 0x20 => decodePlain d .build
  | 0x21 => decodePlain d .tableExport
  | 0x22 => decodeN d .tableImport
  | 0x23 => decodeSym d .ctRead
  | 0x30 => decodeN d .encode
  | 0x31 => decodePlain d .decodeBb
  | 0x32 => decodeN d .decodeStream
  | 0x40 => decodePlain d .bbClear
  | 0x41 => decodeBit d .bbAppend
  | 0x42 => decodeN d .bbGet
  | 0x43 => decodePlain d .bbEmit
  | 0x44 => decodeN d .bbLoad
  | _ => .illegal .unknownOp

/-! ## The encoder -/

/-- R73: the OP value of each command. -/
def opcode : Instr → BitVec 8
  | .nop => 0x00#8
  | .reset => 0x01#8
  | .errAck => 0x02#8
  | .setTerm _ => 0x03#8
  | .freqClear => 0x10#8
  | .freqSet _ _ => 0x11#8
  | .build => 0x20#8
  | .tableExport => 0x21#8
  | .tableImport _ => 0x22#8
  | .ctRead _ => 0x23#8
  | .encode _ => 0x30#8
  | .decodeBb => 0x31#8
  | .decodeStream _ => 0x32#8
  | .bbClear => 0x40#8
  | .bbAppend _ => 0x41#8
  | .bbGet _ => 0x42#8
  | .bbEmit => 0x43#8
  | .bbLoad _ => 0x44#8

/-- R70: the five fields laid out in one descriptor, RSV being 0. -/
def packFields (op : BitVec 8) (sym : BitVec 16) (n : BitVec 32) (val : BitVec 64) : Descriptor :=
  val ++ n ++ sym ++ 0#8 ++ op

/-- A symbol in the 16-bit SYM field, zero-extended (R70). -/
def symOfOperand (s : Sym) : BitVec 16 := s.setWidth 16

/-- The descriptor of a command, with unused fields 0 (R77). -/
def encode (i : Instr) : Descriptor :=
  match i with
  | .setTerm s => packFields (opcode i) (symOfOperand s) 0 0
  | .ctRead s => packFields (opcode i) (symOfOperand s) 0 0
  | .freqSet s v => packFields (opcode i) (symOfOperand s) 0 v
  | .tableImport n => packFields (opcode i) 0 n 0
  | .encode n => packFields (opcode i) 0 n 0
  | .decodeStream n => packFields (opcode i) 0 n 0
  | .bbGet n => packFields (opcode i) 0 n 0
  | .bbLoad n => packFields (opcode i) 0 n 0
  | .bbAppend b => packFields (opcode i) 0 0 ((BitVec.ofBool b).setWidth 64)
  | .nop | .reset | .errAck | .freqClear | .build | .tableExport | .decodeBb | .bbClear | .bbEmit =>
    packFields (opcode i) 0 0 0

/-! ## The 16-byte carrier (20_memory.md R52 (a)) -/

/-- The bytes of a descriptor: byte `k` is `d[8k+7:8k]`. -/
def bytesOfDescriptor (d : Descriptor) : List Byte :=
  (List.range 16).map (fun k => d.extractLsb' (8 * k) 8)

/-- The number a little-endian byte sequence stands for. -/
def littleEndian : List Byte → Nat
  | [] => 0
  | x :: xs => x.toNat + 256 * littleEndian xs

/-- A descriptor read from its carrier: exactly 16 bytes (R53: a descriptor is always a whole 128-bit word). -/
def descriptorOfBytes (bs : List Byte) : Option Descriptor :=
  if bs.length = 16 then some (BitVec.ofNat 128 (littleEndian bs)) else none

/-- Decoding a carrier's bytes: `none` where they are no whole descriptor. -/
def decodeBytes (bs : List Byte) : Option Decoded :=
  (descriptorOfBytes bs).map decode

/-! ## The opcode table's numbering -/

/-- The descriptor whose bits, numbered as spec/opcode_table.json numbers them (bit 0 the least significant), are the
`nbits` low bits of `w`, every bit above them 0. -/
def tableDescriptor (nbits w : Nat) : Descriptor := BitVec.ofNat 128 (w % 2 ^ nbits)

/-- The command the decoder reads from an opcode-table word; `none` where it refuses. The command port stores a
descriptor as one 128-bit word (20_memory.md R50, R55), whose bits the table numbers from the least significant. -/
def decodeTableWord (nbits w : Nat) : Option Instr :=
  match decode (tableDescriptor nbits w) with
  | .ok i => some i
  | .illegal _ => none

end Sys2Proof
end

