-- ==== Sys2Proof/Machine/Operands.lean ====
section
/-! DEFINITION. The operand forms (30_encoding.md R71): every operand is an unsigned immediate. A count, index or
capacity is used as the number it is; an info word is its value zero-extended to 64 bits (60_exceptions.md R221). -/

namespace Sys2Proof.Machine

/-- R71: N, a 32-bit unsigned count, index or capacity; not sign-extended, scaled or shifted. -/
def countOf (n : BitVec 32) : Nat := n.toNat

/-- An info word holding a number (R221: zero-extended to 64 bits; notes/assumptions/17.md). -/
def infoNat (n : Nat) : Reg := BitVec.ofNat 64 n

/-- An info word holding a symbol (R221). -/
def infoSym (s : Sym) : Reg := s.setWidth 64

/-- An info word holding an OP field (R221). -/
def infoOp (op : BitVec 8) : Reg := op.setWidth 64

/-- RESULT of BB_GET: the bit, zero-extended (40_bit_buffer.md R104). -/
def infoBit (b : Bool) : Reg := (BitVec.ofBool b).setWidth 64

end Sys2Proof.Machine
end

