-- ==== Sys2Proof/Machine/Ops.lean ====
section
/-! DEFINITION. The operations the commands share: error entry and its acknowledgement, dropping, counter zeroing, the
streams, the bit buffer's primitives, clearing the tree, and the frame every command runs in (60_exceptions.md R228). -/

namespace Sys2Proof.Machine

/-! ## Errors (60_exceptions.md) -/

/-- Error entry, R224: what `raise` performs, whichever command raised; nothing else changes. -/
def Engine.enterError (e : Engine) (op : BitVec 8) (code : ErrCode) (info0 info1 : Reg) : Engine :=
  { e with err := true, errCode := code, errOp := op, errInfo0 := info0, errInfo1 := info1 }

/-- Return from error, R202 and R225: ERR, DROP and the error registers to 0. -/
def Engine.ackError (e : Engine) : Engine :=
  { e with err := false, drop := false, errCode := .noError, errOp := 0#8, errInfo0 := 0#64, errInfo1 := 0#64 }

/-- Dropping, R226: DROP to 1 and nothing else. -/
def Engine.markDropped (e : Engine) : Engine := { e with drop := true }

/-- R34: the three counters to 0, at the start of every executed command. -/
def Engine.zeroCounters (e : Engine) : Engine :=
  { e with inCount := 0#64, outCount := 0#64, symCount := 0#64 }

/-! ## The tree and the buffers -/

/-- "Tree cleared", R24: TREE_VALID, ROOT, NLEAVES, NNODES, TBL_BYTES and every CT_V to 0, every record FREE. R24 does
not say what CT_LEN and CT_PATH of an entry made absent then hold: here 0 and empty (DESIGN CHOICE,
notes/assumptions/21.md). -/
def Engine.clearTree (e : Engine) : Engine :=
  { e with treeValid := false, nodes := [], root := 0, tblBytes := 0#64, ct := emptyCt }

/-- The bit buffer replaced: `BBClear()` and then the appends of these bits (R100). -/
def Engine.setBb (e : Engine) (bits : List Bool) : Engine := { e with bb := bits }

/-- `BBAppend(b)`, R100: `none` where the buffer is full. -/
def appendBit (bits : List Bool) (b : Bool) : Option (List Bool) :=
  if Config.bbCapBits ≤ bits.length then none else some (bits ++ [b])

/-! ## The machine's state with one part replaced -/

/-- The engine replaced. -/
def State.setEng (s : State) (e : Engine) : State := { s with eng := e }

/-- `k` calls of `InRead()` that each return a byte (R56): the bytes leave IN and IN_COUNT counts them (R34). -/
def State.readIn (s : State) (k : Nat) : State :=
  { s with
    inp := { s.inp with units := s.inp.units.drop k }
    eng := { s.eng with inCount := s.eng.inCount + BitVec.ofNat 64 k } }

/-- `k` calls of `SymRead()` that each return a symbol (R58), counted in SYM_COUNT (R34). -/
def State.readSym (s : State) (k : Nat) : State :=
  { s with
    symIn := { s.symIn with units := s.symIn.units.drop k }
    eng := { s.eng with symCount := s.eng.symCount + BitVec.ofNat 64 k } }

/-- `OutWrite` of each byte in order (R57), counted in OUT_COUNT (R34). -/
def State.writeOut (s : State) (bytes : List Byte) : State :=
  { s with
    out := s.out ++ bytes
    eng := { s.eng with outCount := s.eng.outCount + BitVec.ofNat 64 bytes.length } }

/-- `SymWrite` of each symbol in order (R59). -/
def State.writeSymOut (s : State) (syms : List Sym) : State := { s with symOut := s.symOut ++ syms }

/-! ## How a command ends -/

/-- How the pseudocode of a command ends: at its last line, at a `raise` (00_scope.md R14) with the state changed so
far, or waiting for ever on a stream (70_reset_and_hazards.md R259). -/
inductive Result where
  | ok (s : State)
  | raised (s : State) (code : ErrCode) (info0 info1 : Reg)
  | stuck (f : Fault)
deriving DecidableEq, Repr

/-- The end of a command whose OP is `op`: a raise takes error entry (R224) and the machine goes on. -/
def finish (op : BitVec 8) : Result → Host.Outcome State Fault Refusal
  | .ok s => .next s
  | .raised s code info0 info1 => .next (s.setEng (s.eng.enterError op code info0 info1))
  | .stuck f => .fault f

/-- R228: a command is dropped while ERR = 1 (R226); otherwise the counters are zeroed (R34) and it runs. -/
def runCommand (op : BitVec 8) (body : State → Result) (s : State) : Host.Outcome State Fault Refusal :=
  if s.eng.err then .next (s.setEng s.eng.markDropped)
  else finish op (body (s.setEng s.eng.zeroCounters))

/-- RESET and ERR_ACK: never dropped, and they raise nothing (R204); the counters are zeroed first (R34). -/
def runRecovery (body : Engine → Engine) (s : State) : Host.Outcome State Fault Refusal :=
  .next (s.setEng (body s.eng.zeroCounters))

/-- R227: NO_TREE(OP, 0), with no other effect, unless TREE_VALID = 1. -/
def needTree (op : BitVec 8) (body : State → Result) (s : State) : Result :=
  if s.eng.treeValid then body s else .raised s .noTree (infoOp op) 0#64

/-- `InRead()` with no byte left: EOF if the host has signalled end of data (R56), else no answer ever comes (R259). -/
def atEndOfIn (s : State) (onEof : Result) : Result :=
  match s.inp.tail with
  | .eof => onEof
  | .withheld => .stuck .stuckIn

/-- `SymRead()` with no symbol left (R58, R259). -/
def atEndOfSym (s : State) (onEof : Result) : Result :=
  match s.symIn.tail with
  | .eof => onEof
  | .withheld => .stuck .stuckSymIn

/-- Filling the bit buffer from `n` bytes of IN, shared by BB_LOAD (40_bit_buffer.md R106) and TABLE_IMPORT's staging
(42_code_table.md R154): RESOURCE before any read, TRUNCATION(n, j) after the `j < n` bytes there are, else `done`. As
`8*n` does not exceed the capacity, no append can find the buffer full (notes/assumptions/19.md). -/
def loadBuffer (n : Nat) (done : State → Result) (s : State) : Result :=
  if 8 * n > Config.bbCapBits then .raised s .resource 1#64 (infoNat (8 * n))
  else
    let got := s.inp.units.take n
    let s' := (s.readIn got.length).setEng ((s.readIn got.length).eng.setBb (bytesToBits got))
    if got.length < n then atEndOfIn s' (.raised s' .truncation (infoNat n) (infoNat got.length))
    else done s'

end Sys2Proof.Machine
end

