-- ==== Sys2Proof/Machine/BitBuffer.lean ====
section
/-! DEFINITION. The bit-buffer commands (40_bit_buffer.md R100 to R107). -/

namespace Sys2Proof.Machine

/-- BB_CLEAR, R102. -/
def execBbClear (s : State) : Host.Outcome State Fault Refusal :=
  runCommand (opcode .bbClear) (fun s => .ok (s.setEng (s.eng.setBb []))) s

/-- The body of BB_APPEND b, R103. -/
def bbAppendBody (b : Bool) (s : State) : Result :=
  match appendBit s.eng.bb b with
  | none => .raised s .resource 1#64 (infoNat (Config.bbCapBits + 1))
  | some bits => .ok (s.setEng (s.eng.setBb bits))

/-- BB_APPEND b, R103. -/
def execBbAppend (b : Bool) (s : State) : Host.Outcome State Fault Refusal :=
  runCommand (opcode (.bbAppend b)) (bbAppendBody b) s

/-- The body of BB_GET i, R104: RANGE(i, BB_LEN) at and above BB_LEN, else the bit in RESULT. -/
def bbGetBody (i : BitVec 32) (s : State) : Result :=
  match s.eng.bb[countOf i]? with
  | none => .raised s .range (infoNat (countOf i)) s.eng.bbLen
  | some b => .ok (s.setEng { s.eng with result := infoBit b })

/-- BB_GET i, R104. -/
def execBbGet (i : BitVec 32) (s : State) : Host.Outcome State Fault Refusal :=
  runCommand (opcode (.bbGet i)) (bbGetBody i) s

/-- BB_EMIT, R105. -/
def execBbEmit (s : State) : Host.Outcome State Fault Refusal :=
  runCommand (opcode .bbEmit) (fun s => .ok (s.writeOut (packBytes s.eng.bb))) s

/-- BB_LOAD n, R106. -/
def execBbLoad (n : BitVec 32) (s : State) : Host.Outcome State Fault Refusal :=
  runCommand (opcode (.bbLoad n)) (loadBuffer (countOf n) (fun s => .ok s)) s

end Sys2Proof.Machine
end

