-- ==== Sys2Proof/Machine/TreeBuild.lean ====
section
/-! DEFINITION. The frequency table and the tree builder (41_tree_build.md R120 to R134), and TBL_BYTES
(42_code_table.md R143), which BUILD and TABLE_IMPORT both set. -/

namespace Sys2Proof.Machine

/-- FREQ_CLEAR, R121. -/
def execFreqClear (s : State) : Host.Outcome State Fault Refusal :=
  runCommand (opcode .freqClear) (fun s => .ok (s.setEng { s.eng with freq := emptyFreq })) s

/-- FREQ_SET s, v, R122. -/
def execFreqSet (sym : Sym) (v : BitVec Config.freqw) (s : State) : Host.Outcome State Fault Refusal :=
  runCommand (opcode (.freqSet sym v))
    (fun s => .ok (s.setEng { s.eng with freq := symPut s.eng.freq sym (some v) })) s

/-! ## The builder's input (R123 to R125, R128) -/

/-- `P` of R123: the present symbols in ascending order, each with its count. -/
def presentCounts (freq : FreqTable) : List (Sym × BitVec Config.freqw) :=
  allSyms.filterMap (fun s => (symGet freq s).map (fun c => (s, c)))

/-- R124's `M`: the largest count of a present symbol. -/
def maxCount (present : List (Sym × BitVec Config.freqw)) : Nat :=
  present.foldl (fun m p => max m p.2.toNat) 0

/-- R124: the terminator's explicit frequency, else half the largest count (integer division). -/
def terminatorCount (freq : FreqTable) (term : Sym) : BitVec Config.freqw :=
  match symGet freq term with
  | some c => c
  | none => BitVec.ofNat Config.freqw (maxCount (presentCounts freq) / 2)

/-- `Lv` of R123 with each leaf's count: the symbols that are present or TERM, in ascending order (R128). -/
def leafCounts (freq : FreqTable) (term : Sym) : List (Sym × BitVec Config.freqw) :=
  allSyms.filterMap (fun s =>
    if s = term then some (s, terminatorCount freq term) else (symGet freq s).map (fun c => (s, c)))

/-! ## The priority queue (R126, R127) -/

/-- A queued node: its handle and its frequency F. -/
structure QItem where
  f : BitVec Config.ifreqw
  h : Handle
deriving DecidableEq, Repr

/-- R127: the lesser frequency first; among equal frequencies the lesser handle. -/
def qBefore (a b : QItem) : Bool := decide (a.f < b.f) || (a.f == b.f && decide (a.h < b.h))

/-- The element R127 extracts, and the rest of the queue. -/
def extractLeast : List QItem → Option (QItem × List QItem)
  | [] => none
  | x :: xs =>
    match extractLeast xs with
    | none => some (x, [])
    | some (m, rest) => if qBefore x m then some (x, m :: rest) else some (m, x :: rest)

/-- The arena while BUILD runs: the records and their F, handle `h` being the `h`-th of each. -/
structure Arena where
  nodes : List Node
  fs : List (BitVec Config.ifreqw)
deriving DecidableEq, Repr

/-- R128, R126: the leaves, handles 0, 1, …, each with its count zero-extended. -/
def leafArena (leaves : List (Sym × BitVec Config.freqw)) : Arena :=
  { nodes := leaves.map (fun p => Node.leaf p.1), fs := leaves.map (fun p => p.2.setWidth Config.ifreqw) }

/-- `Q` of R123 at the start: every leaf. -/
def leafQueue (leaves : List (Sym × BitVec Config.freqw)) : List QItem :=
  leaves.zipIdx.map (fun p => { f := p.1.2.setWidth Config.ifreqw, h := p.2 })

/-- R123's `while |Q| > 1`: the first node extracted becomes LEFT and the second RIGHT (R129), of a new node whose
frequency is the sum (R126) and whose handle is the next one (R128). `fuel` bounds the rounds; each round makes the
queue one shorter, so its length is enough (notes/assumptions/16.md). The answer is the arena and the last node's handle. -/
def mergeQueue : Nat → List QItem → Arena → Arena × Handle
  | 0, q, arena => (arena, (q.head?.map QItem.h).getD 0)
  | fuel + 1, q, arena =>
    match extractLeast q with
    | none => (arena, 0)
    | some (a, q1) =>
      match extractLeast q1 with
      | none => (arena, a.h)
      | some (b, q2) =>
        let h := arena.nodes.length
        mergeQueue fuel ({ f := a.f + b.f, h := h } :: q2)
          { nodes := arena.nodes ++ [.internal (some a.h) (some b.h)], fs := arena.fs ++ [a.f + b.f] }

/-- The tree of R123: the arena and ROOT. -/
def huffmanTree (leaves : List (Sym × BitVec Config.freqw)) : Arena × Handle :=
  mergeQueue leaves.length (leafQueue leaves) (leafArena leaves)

/-! ## Path derivation (R130) -/

/-- `DerivePaths` from handle `h`, reached by `path`: 0 for each descent to LEFT, 1 to RIGHT, a leaf's code being the
bits walked. `fuel` bounds the depth; the number of records is enough in a tree. -/
def derivePaths : Nat → List Node → Handle → Path → List (Sym × Path)
  | 0, _, _, _ => []
  | fuel + 1, nodes, h, path =>
    match nodes[h]? with
    | none => []
    | some (.leaf sym) => [(sym, path)]
    | some (.internal l r) =>
      (match l with
        | some c => derivePaths fuel nodes c (path ++ [false])
        | none => []) ++
      (match r with
        | some c => derivePaths fuel nodes c (path ++ [true])
        | none => [])

/-- The code table with these entries. -/
def codeTableOf (entries : List (Sym × Path)) : CodeTable :=
  entries.foldl (fun ct p => symPut ct p.1 (some p.2)) emptyCt

/-! ## TBL_BYTES (42_code_table.md R143) -/

/-- The code table's entries, symbol and path, in ascending symbol order. -/
def ctEntries (ct : CodeTable) : List (Sym × Path) :=
  allSyms.filterMap (fun s => (symGet ct s).map (fun p => (s, p)))

/-- R143: the sum over the entries of `CHAR_BYTES + 1 + CT_LEN[s]`, plus `NLEAVES - 1`. -/
def tableBytes (ct : CodeTable) (leaves : Nat) : Nat :=
  ((ctEntries ct).map (fun p => Config.charBytes + 1 + p.2.length)).sum + (leaves - 1)

/-! ## BUILD (R123) -/

/-- F after BUILD: the entries it wrote, and above them whatever was there (R23). -/
def writeF (old new : List (BitVec Config.ifreqw)) : List (BitVec Config.ifreqw) := new ++ old.drop new.length

/-- The part of R123 after the checks: the engine, its tree cleared, with the tree, the code table and R131's registers
of these leaves. -/
def Engine.installTree (e : Engine) (leaves : List (Sym × BitVec Config.freqw)) (synthetic : Bool)
    (tf : BitVec Config.freqw) : Engine :=
  let built := huffmanTree leaves
  let ct := codeTableOf (derivePaths built.1.nodes.length built.1.nodes built.2 [])
  { e with
    nodes := built.1.nodes
    nodeF := writeF e.nodeF built.1.fs
    root := built.2
    ct := ct
    treeValid := true
    synTerm := synthetic
    result := tf.setWidth 64
    tblBytes := BitVec.ofNat 64 (tableBytes ct (countLeaves built.1.nodes)) }

/-- The body of BUILD, R123: the tree is cleared first; EMPTY_ALPHABET(|P|, 0) where no present symbol differs from
TERM (R125). -/
def buildBody (s : State) : Result :=
  let e := { s.eng.clearTree with synTerm := false }
  let present := presentCounts e.freq
  if present.any (fun p => p.1 != e.term) then
    .ok (s.setEng (e.installTree (leafCounts e.freq e.term) (!(e.freqV e.term)) (terminatorCount e.freq e.term)))
  else .raised (s.setEng e) .emptyAlphabet (infoNat present.length) 0#64

/-- BUILD, R123 to R133. -/
def execBuild (s : State) : Host.Outcome State Fault Refusal :=
  runCommand (opcode .build) buildBody s

end Sys2Proof.Machine
end

