-- ==== Sys2Proof/Machine/CodeTable.lean ====
section
/-! DEFINITION. The code table: export, lookup, import and reconstruction (42_code_table.md R140 to R161), with the table
text's format (30_encoding.md R81 to R83). -/

namespace Sys2Proof.Machine

/-! ## The table text (R81, R83) -/

/-- COLON. -/
def colonByte : Byte := 0x3A#8

/-- SEP. -/
def sepByte : Byte := 0x3B#8

/-- DIGIT: `0` is a left descent and `1` a right descent. -/
def digitByte (b : Bool) : Byte := if b then 0x31#8 else 0x30#8

/-- The bit a DIGIT byte stands for; `none` for any other byte (R155). -/
def digitBit (x : Byte) : Option Bool :=
  if x = 0x30#8 then some false else if x = 0x31#8 then some true else none

/-- CHAR: the symbol as `CHAR_BYTES` bytes, most significant first. -/
def charText (s : Sym) : List Byte :=
  (List.range Config.charBytes).reverse.map (fun k => s.extractLsb' (8 * k) 8)

/-- The symbol of a CHAR: the big-endian value of its bytes (R150). -/
def charSym (bytes : List Byte) : Sym :=
  BitVec.ofNat Config.symw (bytes.foldl (fun acc x => 256 * acc + x.toNat) 0)

/-- One entry of the table text: CHAR, COLON and the path's digits. -/
def entryText (p : Sym × Path) : List Byte := charText p.1 ++ colonByte :: p.2.map digitByte

/-- Entries joined by SEP, none after the last (R81). -/
def joinEntries : List (List Byte) → List Byte
  | [] => []
  | [x] => x
  | x :: y :: rest => x ++ sepByte :: joinEntries (y :: rest)

/-- R140, R141: the text TABLE_EXPORT writes, a function of the code table alone. -/
def exportText (ct : CodeTable) : List Byte := joinEntries ((ctEntries ct).map entryText)

/-- TABLE_EXPORT, R140. -/
def execTableExport (s : State) : Host.Outcome State Fault Refusal :=
  runCommand (opcode .tableExport)
    (needTree (opcode .tableExport) (fun s => .ok (s.writeOut (exportText s.eng.ct)))) s

/-! ## Lookup -/

/-- The body of CT_READ after the NO_TREE check, R144: the buffer and RESULT change only where `sym` has a code. -/
def ctReadBody (sym : Sym) (s : State) : Result :=
  match symGet s.eng.ct sym with
  | none => .raised s .alphabet (infoSym sym) 0#64
  | some path => .ok (s.setEng { s.eng.setBb path with result := infoNat path.length })

/-- CT_READ s, R144. -/
def execCtRead (sym : Sym) (s : State) : Host.Outcome State Fault Refusal :=
  runCommand (opcode (.ctRead sym)) (needTree (opcode (.ctRead sym)) (ctReadBody sym)) s

/-! ## Import: the reasons (R152) -/

/-- CORRUPT_TABLE's reasons. -/
inductive CorruptReason where
  /-- 1, SYNTAX. -/
  | badText
  /-- 2, THROUGH_LEAF. -/
  | throughLeaf
  /-- 3, PREFIX_OF_EARLIER. -/
  | prefixOfEarlier
  /-- 4, DUPLICATE_PATH. -/
  | duplicatePath
  /-- 5, DUPLICATE_SYMBOL. -/
  | duplicateSymbol
  /-- 6, NO_TERMINATOR. -/
  | noTerminator
  /-- 7, EMPTY_PATH. -/
  | emptyPath
  /-- 8, PATH_TOO_LONG. -/
  | pathTooLong
deriving DecidableEq, Repr

/-- R152: a reason's number, ERR_INFO1 of CORRUPT_TABLE. -/
def corruptCode : CorruptReason → Nat
  | .badText => 1
  | .throughLeaf => 2
  | .prefixOfEarlier => 3
  | .duplicatePath => 4
  | .duplicateSymbol => 5
  | .noTerminator => 6
  | .emptyPath => 7
  | .pathTooLong => 8

/-- Why an import ends: CORRUPT_TABLE(offset, reason), or RESOURCE(3, NODE_CAP + 1). -/
inductive ImportStop where
  | corrupt (offset : Nat) (reason : CorruptReason)
  | arenaFull
deriving DecidableEq, Repr

/-! ## Import: reconstruction (R156) -/

/-- The tree and the code table while TABLE_IMPORT runs. -/
structure Rebuild where
  nodes : List Node
  ct : CodeTable
deriving DecidableEq, Repr

/-- R150: the root alone, an INTERNAL record with no child, handle 0. -/
def Rebuild.start : Rebuild := { nodes := [.internal none none], ct := emptyCt }

/-- The child a bit leads to: LEFT on 0, RIGHT on 1 (R156, R174). -/
def childOf (left right : Option Handle) (b : Bool) : Option Handle := if b then right else left

/-- An INTERNAL record with the child a bit leads to set. -/
def linkChild (left right : Option Handle) (b : Bool) (c : Handle) : Node :=
  if b then .internal left (some c) else .internal (some c) right

/-- R156's walk from `h` along a path, creating INTERNAL records on demand; `e` is the offset of the entry's CHAR. The
answer is the arena and the handle the path ends at. A handle that is not allocated stops the walk as a leaf does: none
is met, since every link of a rebuilt arena is allocated (notes/assumptions/11.md). -/
def insertWalk (e : Nat) : List Node → Handle → Path → Except ImportStop (List Node × Handle)
  | nodes, h, [] => .ok (nodes, h)
  | nodes, h, b :: path =>
    match nodes[h]? with
    | none => .error (.corrupt e .throughLeaf)
    | some (.leaf _) => .error (.corrupt e .throughLeaf)
    | some (.internal l r) =>
      match childOf l r b with
      | some c => insertWalk e nodes c path
      | none =>
        if nodes.length = Config.nodeCap then .error .arenaFull
        else insertWalk e (nodes.set h (linkChild l r b nodes.length) ++ [.internal none none]) nodes.length path

/-- `Insert(s, path, e)`, R156. -/
def insertEntry (sym : Sym) (path : Path) (e : Nat) (t : Rebuild) : Except ImportStop Rebuild :=
  if (symGet t.ct sym).isSome then .error (.corrupt e .duplicateSymbol)
  else
    match insertWalk e t.nodes 0 path with
    | .error stop => .error stop
    | .ok (nodes, h) =>
      match nodes[h]? with
      | none => .error (.corrupt e .duplicatePath)
      | some (.leaf _) => .error (.corrupt e .duplicatePath)
      | some (.internal l r) =>
        if l.isSome || r.isSome then .error (.corrupt e .prefixOfEarlier)
        else .ok { nodes := nodes.set h (.leaf sym), ct := symPut t.ct sym (some path) }

/-! ## Import: parsing, one byte at a time (R150, R151, R155) -/

/-- Where the parse stands. `e` is the offset of the entry's CHAR. -/
inductive Parse where
  /-- In CHAR: the bytes of it read so far, fewer than `CHAR_BYTES`. -/
  | char (e : Nat) (got : List Byte)
  /-- COLON is next. -/
  | colon (e : Nat) (sym : Sym)
  /-- In the digits: the path so far. -/
  | digits (e : Nat) (sym : Sym) (path : Path)
deriving DecidableEq, Repr

/-- The end of a digit run at offset `p`: EMPTY_PATH, else Insert (R151's order). -/
def endOfDigits (p e : Nat) (sym : Sym) (path : Path) (t : Rebuild) : Except ImportStop Rebuild :=
  if path.isEmpty then .error (.corrupt p .emptyPath) else insertEntry sym path e t

/-- The byte `x` of the table text, at offset `p`. -/
def parseByte (p : Nat) (x : Byte) : Parse → Rebuild → Except ImportStop (Parse × Rebuild)
  | .char e got, t =>
    let got := got ++ [x]
    if got.length < Config.charBytes then .ok (.char e got, t) else .ok (.colon e (charSym got), t)
  | .colon e sym, t =>
    if x = colonByte then .ok (.digits e sym [], t) else .error (.corrupt p .badText)
  | .digits e sym path, t =>
    match digitBit x with
    | some b =>
      if path.length = Config.maxcode then .error (.corrupt p .pathTooLong)
      else .ok (.digits e sym (path ++ [b]), t)
    | none =>
      match endOfDigits p e sym path t with
      | .error stop => .error stop
      | .ok t' => if x = sepByte then .ok (.char (p + 1) [], t') else .error (.corrupt p .badText)

/-- The end of the table text, at offset `n`: accepted after an entry, or after one trailing separator. -/
def parseEnd (n : Nat) : Parse → Rebuild → Except ImportStop Rebuild
  | .char _ got, t => if n = 0 || !got.isEmpty then .error (.corrupt n .badText) else .ok t
  | .colon _ _, _ => .error (.corrupt n .badText)
  | .digits e sym path, t => endOfDigits n e sym path t

/-- The parse of the rest of the text, the next byte being at offset `p`: a single pass, the first error found being the
one reported (R151). -/
def parseText : Nat → List Byte → Parse → Rebuild → Except ImportStop Rebuild
  | p, [], st, t => parseEnd p st t
  | p, x :: rest, st, t =>
    match parseByte p x st t with
    | .error stop => .error stop
    | .ok (st', t') => parseText (p + 1) rest st' t'

/-- R150 from the start of the loop to the NO_TERMINATOR check (R153): the tree and code table of a text. A text with one
entry, TERM's, passes every check of R150 to R156 and is taken, as R157 and decision D31 take incomplete code sets
(notes/assumptions/12.md). -/
def importText (term : Sym) (text : List Byte) : Except ImportStop Rebuild :=
  match parseText 0 text (.char 0 []) Rebuild.start with
  | .error stop => .error stop
  | .ok t => if (symGet t.ct term).isSome then .ok t else .error (.corrupt text.length .noTerminator)

/-! ## TABLE_IMPORT -/

/-- R150's last lines: the tree, the code table and the registers of a rebuilt tree (R158). -/
def Engine.installImport (e : Engine) (t : Rebuild) : Engine :=
  { e with
    nodes := t.nodes
    root := 0
    ct := t.ct
    treeValid := true
    tblBytes := BitVec.ofNat 64 (tableBytes t.ct (countLeaves t.nodes)) }

/-- R150 after staging: `t[j]` is byte `j` of `BBBytes()` (R154). On failure the tree stays cleared (R159). -/
def importStaged (s : State) : Result :=
  match importText s.eng.term (packBytes s.eng.bb) with
  | .ok t => .ok (s.setEng (s.eng.installImport t))
  | .error (.corrupt offset reason) => .raised s .corruptTable (infoNat offset) (infoNat (corruptCode reason))
  | .error .arenaFull => .raised s .resource 3#64 (infoNat (Config.nodeCap + 1))

/-- The body of TABLE_IMPORT n, R150: the tree is cleared and SYN_TERM zeroed before staging (R154). -/
def tableImportBody (n : BitVec 32) (s : State) : Result :=
  loadBuffer (countOf n) importStaged (s.setEng { s.eng.clearTree with synTerm := false })

/-- TABLE_IMPORT n, R150 to R159. -/
def execTableImport (n : BitVec 32) (s : State) : Host.Outcome State Fault Refusal :=
  runCommand (opcode (.tableImport n)) (tableImportBody n) s

end Sys2Proof.Machine
end

