-- ==== Sys2Proof/Machine/Codec.lean ====
section
/-! DEFINITION. The encoder and the two decoders (43_codec.md R170 to R188). -/

namespace Sys2Proof.Machine

/-! ## ENCODE -/

/-- How the encoding of the text's symbols ends. -/
inductive EncodeStop where
  /-- Every symbol is appended. -/
  | finished
  /-- The symbol at text position `j` has no code: ALPHABET(sym, j). -/
  | noCode (sym : Sym) (j : Nat)
  /-- The bit buffer is full: RESOURCE(1, BB_CAP_BITS + 1). -/
  | full
deriving DecidableEq, Repr

/-- The encoding of a text: the bits appended, the symbols read, and how it ended. -/
structure EncodeRun where
  bits : List Bool
  read : Nat
  stop : EncodeStop
deriving DecidableEq, Repr

/-- R170's loop over the symbols at hand, `j` being the text position of the first and `room` the bits the buffer can
still take. A path that does not fit fills the buffer up and then finds it full. -/
def encodeText (ct : CodeTable) : Nat → Nat → List Sym → EncodeRun
  | _, _, [] => { bits := [], read := 0, stop := .finished }
  | room, j, sym :: rest =>
    match symGet ct sym with
    | none => { bits := [], read := 1, stop := .noCode sym j }
    | some path =>
      if path.length ≤ room then
        let r := encodeText ct (room - path.length) (j + 1) rest
        { bits := path ++ r.bits, read := r.read + 1, stop := r.stop }
      else { bits := path.take room, read := 1, stop := .full }

/-- R171: the terminator's path, unless the text is not empty and its last symbol is TERM. -/
def terminatorPath (e : Engine) (text : List Sym) : Path :=
  if text.getLast? = some e.term then [] else e.ctPath e.term

/-- R170 after the text's last symbol: the terminator (R171), and on success the packed bytes to OUT. -/
def encodeFinish (text : List Sym) (s : State) : Result :=
  let bits := s.eng.bb ++ terminatorPath s.eng text
  if bits.length ≤ Config.bbCapBits then .ok ((s.setEng (s.eng.setBb bits)).writeOut (packBytes bits))
  else
    .raised (s.setEng (s.eng.setBb (bits.take Config.bbCapBits))) .resource 1#64 (infoNat (Config.bbCapBits + 1))

/-- The body of ENCODE n after the NO_TREE check, R170: the first symbol, in text order, that is missing, has no code
or does not fit decides the error. -/
def encodeBody (n : BitVec 32) (s : State) : Result :=
  let text := s.symIn.units.take (countOf n)
  let r := encodeText s.eng.ct Config.bbCapBits 0 text
  let s' := (s.readSym r.read).setEng ((s.readSym r.read).eng.setBb r.bits)
  match r.stop with
  | .noCode sym j => .raised s' .alphabet (infoSym sym) (infoNat j)
  | .full => .raised s' .resource 1#64 (infoNat (Config.bbCapBits + 1))
  | .finished =>
    if text.length < countOf n then
      atEndOfSym s' (.raised s' .truncation (infoNat (countOf n)) (infoNat text.length))
    else encodeFinish text s'

/-- ENCODE n, R170 to R173. -/
def execEncode (n : BitVec 32) (s : State) : Host.Outcome State Fault Refusal :=
  runCommand (opcode (.encode n)) (needTree (opcode (.encode n)) (encodeBody n)) s

/-! ## The shared walk (R174) -/

/-- The walk's own state (10_state.md R29): the cursor, the bits consumed, and OBUF. -/
structure Walk where
  h : Handle
  k : Nat
  obuf : List Sym
deriving DecidableEq, Repr

/-- What the walk reads: the arena, ROOT, TERM, and the caller's symbol bound (`none`: infinity). -/
structure WalkEnv where
  nodes : List Node
  root : Handle
  term : Sym
  cap : Option Nat
deriving DecidableEq, Repr

/-- Where the walk stands after some bits. -/
inductive WalkStep where
  /-- Every bit is consumed and the walk wants another. -/
  | running (w : Walk)
  /-- The TERM leaf is reached: the walk returns OBUF. -/
  | returned (w : Walk)
  /-- A raise, with the walk's state at it. -/
  | failed (w : Walk) (code : ErrCode) (info0 info1 : Reg)
deriving DecidableEq, Repr

/-- The child of record `h` that a bit leads to (R174). Only an INTERNAL record has children
(notes/assumptions/11.md). -/
def nextNode (nodes : List Node) (h : Handle) (b : Bool) : Option Handle :=
  match nodes[h]? with
  | some (.internal l r) => childOf l r b
  | some (.leaf _) => none
  | none => none

/-- R174's arrival at a data leaf: CAPACITY, then the OBUF limit (R177), then the symbol is stored and the cursor goes
back to ROOT. -/
def storeSymbol (env : WalkEnv) (sym : Sym) (w : Walk) : WalkStep :=
  if env.cap = some w.obuf.length then .failed w .capacity (infoNat w.obuf.length) (infoSym sym)
  else if w.obuf.length = Config.obufCap then .failed w .resource 2#64 (infoNat (Config.obufCap + 1))
  else .running { w with h := env.root, obuf := w.obuf ++ [sym] }

/-- R174 for one bit. -/
def walkBit (env : WalkEnv) (w : Walk) (b : Bool) : WalkStep :=
  match nextNode env.nodes w.h b with
  | none => .failed { w with k := w.k + 1 } .malformed (infoNat w.k) (infoNat w.h)
  | some c =>
    let w' := { w with h := c, k := w.k + 1 }
    match env.nodes[c]? with
    | some (.leaf sym) => if sym = env.term then .returned w' else storeSymbol env sym w'
    | some (.internal _ _) => .running w'
    | none => .running w'

/-- R174 over a run of bits: the walk stops at the first bit that ends it, and no later bit is looked at (R175). -/
def walkBits (env : WalkEnv) (w : Walk) : List Bool → WalkStep
  | [] => .running w
  | b :: rest =>
    match walkBit env w b with
    | .running w' => walkBits env w' rest
    | .returned w' => .returned w'
    | .failed w' code info0 info1 => .failed w' code info0 info1

/-- R183: the stream's bits, a byte being read only when a bit is needed and none is left of the current one. The answer
holds the number of bytes read; the bits left of the last one are discarded with CURB (R184). -/
def walkBytes (env : WalkEnv) (w : Walk) : List Byte → WalkStep × Nat
  | [] => (.running w, 0)
  | x :: rest =>
    match walkBits env w (byteBits x) with
    | .running w' =>
      let r := walkBytes env w' rest
      (r.1, r.2 + 1)
    | .returned w' => (.returned w', 1)
    | .failed w' code info0 info1 => (.failed w' code info0 info1, 1)

/-- The walk's start: `OBUF <- []; h <- ROOT; k <- 0` (R174). -/
def Walk.start (root : Handle) : Walk := { h := root, k := 0, obuf := [] }

/-- What the walk reads of an engine (R174, R187). -/
def walkEnv (e : Engine) (cap : Option Nat) : WalkEnv :=
  { nodes := e.nodes, root := e.root, term := e.term, cap := cap }

/-- OBUF and SYM_COUNT as the walk leaves them: every symbol placed in OBUF is counted (R174). -/
def State.keepWalk (s : State) (w : Walk) : State :=
  s.setEng { s.eng with obuf := w.obuf, symCount := s.eng.symCount + BitVec.ofNat 64 w.obuf.length }

/-- The end of a decode: release on success only (R180); `onEnd` is what happens where the bits run out. -/
def finishWalk (s : State) (onEnd : Walk → State → Result) : WalkStep → Result
  | .running w => onEnd w (s.keepWalk w)
  | .returned w => .ok ((s.keepWalk w).writeSymOut w.obuf)
  | .failed w code info0 info1 => .raised (s.keepWalk w) code info0 info1

/-- The body of DECODE_BB after the NO_TREE check, R181. -/
def decodeBbBody (s : State) : Result :=
  finishWalk s (fun w s' => .raised s' .truncation (infoNat w.k) s'.eng.bbLen)
    (walkBits (walkEnv s.eng none) (Walk.start s.eng.root) s.eng.bb)

/-- DECODE_BB, R181. -/
def execDecodeBb (s : State) : Host.Outcome State Fault Refusal :=
  runCommand (opcode .decodeBb) (needTree (opcode .decodeBb) decodeBbBody) s

/-- The body of DECODE_STREAM cap after the NO_TREE check, R185. -/
def decodeStreamBody (cap : BitVec 32) (s : State) : Result :=
  let r := walkBytes (walkEnv s.eng (some (countOf cap))) (Walk.start s.eng.root) s.inp.units
  finishWalk (s.readIn r.2)
    (fun w s' => atEndOfIn s' (.raised s' .truncation (infoNat w.k) s'.eng.inCount)) r.1

/-- DECODE_STREAM cap, R185. -/
def execDecodeStream (cap : BitVec 32) (s : State) : Host.Outcome State Fault Refusal :=
  runCommand (opcode (.decodeStream cap)) (needTree (opcode (.decodeStream cap)) (decodeStreamBody cap)) s

end Sys2Proof.Machine
end

