-- ==== Sys2Proof/Machine/Control.lean ====
section
/-! DEFINITION. The control commands (45_control.md R200 to R206), and what a descriptor that is not valid does
(30_encoding.md R74, R75). -/

namespace Sys2Proof.Machine

/-- NOP, R200: the common steps alone. -/
def execNop (s : State) : Host.Outcome State Fault Refusal :=
  runCommand (opcode .nop) (fun s => .ok s) s

/-- RESET, R201: every element of R20 to its reset value (R250); the streams are untouched (R251). -/
def execReset (s : State) : Host.Outcome State Fault Refusal :=
  runRecovery (fun _ => Engine.reset) s

/-- ERR_ACK, R202. -/
def execErrAck (s : State) : Host.Outcome State Fault Refusal :=
  runRecovery (fun e => e.ackError) s

/-- R203: TERM to `t`, the tree cleared, SYN_TERM to 0. -/
def Engine.setTerminator (e : Engine) (t : Sym) : Engine :=
  { e.clearTree with term := t, synTerm := false }

/-- SET_TERM t, R203. -/
def execSetTerm (t : Sym) (s : State) : Host.Outcome State Fault Refusal :=
  runCommand (opcode (.setTerm t)) (fun s => .ok (s.setEng (s.eng.setTerminator t))) s

/-- A descriptor that R74 does not find valid raises ILLEGAL(OP, reason), after the drop check and the counter zeroing
(R228). -/
def execIllegal (d : Descriptor) (r : IllegalReason) (s : State) : Host.Outcome State Fault Refusal :=
  runCommand (opField d) (fun s => .raised s .illegal (infoOp (opField d)) (reasonCode r)) s

end Sys2Proof.Machine
end

