-- ==== Sys2Proof/Machine/Dispatch.lean ====
section
/-! DEFINITION. One arm per command, each a direct call of its meaning (30_encoding.md R73). -/

namespace Sys2Proof.Machine

def exec (i : Instr) (s : State) : Host.Outcome State Fault Refusal :=
  match i with
  | .nop => Sys2Proof.Machine.execNop s
  | .reset => Sys2Proof.Machine.execReset s
  | .errAck => Sys2Proof.Machine.execErrAck s
  | .setTerm t => Sys2Proof.Machine.execSetTerm t s
  | .freqClear => Sys2Proof.Machine.execFreqClear s
  | .freqSet sym v => Sys2Proof.Machine.execFreqSet sym v s
  | .build => Sys2Proof.Machine.execBuild s
  | .tableExport => Sys2Proof.Machine.execTableExport s
  | .tableImport n => Sys2Proof.Machine.execTableImport n s
  | .ctRead sym => Sys2Proof.Machine.execCtRead sym s
  | .encode n => Sys2Proof.Machine.execEncode n s
  | .decodeBb => Sys2Proof.Machine.execDecodeBb s
  | .decodeStream cap => Sys2Proof.Machine.execDecodeStream cap s
  | .bbClear => Sys2Proof.Machine.execBbClear s
  | .bbAppend b => Sys2Proof.Machine.execBbAppend b s
  | .bbGet n => Sys2Proof.Machine.execBbGet n s
  | .bbEmit => Sys2Proof.Machine.execBbEmit s
  | .bbLoad n => Sys2Proof.Machine.execBbLoad n s

end Sys2Proof.Machine
end

