-- ==== Sys2Proof/Machine/Port.lean ====
section
/-! DEFINITION. The block's ports as the host uses them: the six interfaces of 20_memory.md R50 and the host's
interactions of R60. -/

namespace Sys2Proof.Machine

/-- A descriptor at the command port (R55): the command it decodes to, or ILLEGAL (30_encoding.md R74, R75). -/
def issue (d : Descriptor) (s : State) : Host.Outcome State Fault Refusal :=
  match decode d with
  | .ok i => exec i s
  | .illegal r => execIllegal d r s

/-- R60 (b), (e): bytes appended to IN. EOF is not sticky (R56): the host says again what follows. -/
def supplyIn (bytes : List Byte) (tail : StreamEnd) (s : State) : State :=
  { s with inp := { units := s.inp.units ++ bytes, tail := tail } }

/-- R60 (b): symbols appended to SYMIN (R58). -/
def supplySym (syms : List Sym) (tail : StreamEnd) (s : State) : State :=
  { s with symIn := { units := s.symIn.units ++ syms, tail := tail } }

/-- R60 (d): the value of R36 goes to the host; no side effect (R54). -/
def readRegister (offset : Nat) (s : State) : State :=
  { s with readData := s.readData ++ [readReg s.eng offset] }

/-- R60 (e): the host takes bytes from the head of IN; the engine's counters do not count them
(notes/assumptions/14.md). -/
def consumeIn (count : Nat) (s : State) : State :=
  { s with inp := { s.inp with units := s.inp.units.drop count } }

/-- R60 (f), R251: a power-on or hardware reset, between commands; the streams are untouched. -/
def assertReset (s : State) : State := s.setEng Engine.reset

/-- One move of the host (R60). -/
def hostMove (a : HostAction) (s : State) : Host.Outcome State Fault Refusal :=
  match a with
  | .command d => issue d s
  | .supplyIn bytes tail => .next (supplyIn bytes tail s)
  | .supplySym syms tail => .next (supplySym syms tail s)
  | .readRegister offset => .next (readRegister offset s)
  | .consumeIn count => .next (consumeIn count s)
  | .assertReset => .next (assertReset s)

/-- The host's next move (R38, R55); with none left the engine is idle and holds all state (60_exceptions.md R235,
70_reset_and_hazards.md R252). -/
def nextMove (s : State) : Host.Outcome State Fault Refusal :=
  match s.host with
  | [] => .next s
  | a :: rest => hostMove a { s with host := rest }

end Sys2Proof.Machine
end

