-- ==== Sys2Proof/Machine/Step.lean ====
section
/-! DEFINITION. One step of the machine: the host's next move, a command running whole (00_scope.md R8). -/

namespace Sys2Proof.Machine

/-- One step. -/
def step (s : State) : Host.Outcome State Fault Refusal := nextMove s

/-- `s` with the opcode-table word `w` written to the command port, so that the very next step takes it (R55). The block
fetches nothing (R38): the word is the host's next descriptor (notes/assumptions/7.md). -/
def State.withFetchWord (s : State) (nbits w : Nat) : State :=
  { s with host := .command (tableDescriptor nbits w) :: s.host }

end Sys2Proof.Machine
end

