-- ==== Sys2Proof/Machine/Assembler.lean ====
section
/-! DEFINITION. Assembler syntax and pseudo-commands (30_encoding.md R77, R78). Notation alone: the engine sees only the
descriptors (92_eei_decisions.md D41; notes/assumptions/20.md). -/

namespace Sys2Proof.Machine

/-! ## Pseudo-commands (R78) -/

/-- The pseudo-commands. -/
inductive Pseudo where
  | decodeBuf (n : BitVec 32)
  | bbAppendBits (bits : List Bool)
  | bbSetBits (bits : List Bool)
  | freqLoad (entries : List (Sym × BitVec Config.freqw))
  | huffFrom (entries : List (Sym × BitVec Config.freqw))
deriving DecidableEq, Repr

/-- R78's FREQ_LOAD: FREQ_CLEAR and then FREQ_SET of each entry in order. -/
def freqLoadCommands (entries : List (Sym × BitVec Config.freqw)) : List Instr :=
  .freqClear :: entries.map (fun p => Instr.freqSet p.1 p.2)

/-- R78: the commands a pseudo-command stands for. -/
def expandPseudo : Pseudo → List Instr
  | .decodeBuf n => [.bbLoad n, .decodeBb]
  | .bbAppendBits bits => bits.map Instr.bbAppend
  | .bbSetBits bits => .bbClear :: bits.map Instr.bbAppend
  | .freqLoad entries => freqLoadCommands entries
  | .huffFrom entries => freqLoadCommands entries ++ [.build]

/-! ## Lines of text (R77) -/

/-- The operands a command is written with, in the order SYM, N, VAL. -/
inductive OperandForm where
  | plain
  | sym
  | symVal
  | count
  | bit
deriving DecidableEq, Repr

/-- R73: each mnemonic with its OP and the operands it is written with. -/
def mnemonicTable : List (String × BitVec 8 × OperandForm) := [
  ("NOP", 0x00#8, .plain), ("RESET", 0x01#8, .plain), ("ERR_ACK", 0x02#8, .plain), ("SET_TERM", 0x03#8, .sym),
  ("FREQ_CLEAR", 0x10#8, .plain), ("FREQ_SET", 0x11#8, .symVal), ("BUILD", 0x20#8, .plain),
  ("TABLE_EXPORT", 0x21#8, .plain), ("TABLE_IMPORT", 0x22#8, .count), ("CT_READ", 0x23#8, .sym),
  ("ENCODE", 0x30#8, .count), ("DECODE_BB", 0x31#8, .plain), ("DECODE_STREAM", 0x32#8, .count),
  ("BB_CLEAR", 0x40#8, .plain), ("BB_APPEND", 0x41#8, .bit), ("BB_GET", 0x42#8, .count),
  ("BB_EMIT", 0x43#8, .plain), ("BB_LOAD", 0x44#8, .count)]

/-- The text before a comment, which starts with two semicolons. -/
def stripComment : List Char → List Char
  | ';' :: ';' :: _ => []
  | c :: cs => c :: stripComment cs
  | [] => []

/-- The text after leading spaces. -/
def skipSpaces (cs : List Char) : List Char := cs.dropWhile (fun c => c == ' ')

/-- A digit's value in a base. -/
def digitValue (base : Nat) (c : Char) : Option Nat :=
  let v :=
    if '0' ≤ c ∧ c ≤ '9' then c.toNat - 48
    else if 'a' ≤ c ∧ c ≤ 'f' then c.toNat - 87
    else if 'A' ≤ c ∧ c ≤ 'F' then c.toNat - 55
    else base
  if v < base then some v else none

/-- A run of digits after those already read, and the text after it. -/
def readDigits (base : Nat) : Nat → List Char → Nat × List Char
  | acc, [] => (acc, [])
  | acc, c :: cs =>
    match digitValue base c with
    | some v => readDigits base (base * acc + v) cs
    | none => (acc, c :: cs)

/-- A number with at least one digit. -/
def readBase (base : Nat) (cs : List Char) : Option (Nat × List Char) :=
  match cs with
  | [] => none
  | c :: rest => (digitValue base c).map (fun v => readDigits base v rest)

/-- A number, decimal or hexadecimal after `0x`. -/
def readNumber (cs : List Char) : Option (Nat × List Char) :=
  match cs with
  | '0' :: 'x' :: rest => readBase 16 rest
  | rest => readBase 10 rest

/-- A symbol operand: a quoted character, or a number. A character that has no ASCII code, of which R11 and R77 say
nothing, stands for its Unicode scalar value (DESIGN CHOICE, notes/assumptions/20.md). -/
def readSymbol (cs : List Char) : Option (Nat × List Char) :=
  match cs with
  | '\'' :: c :: '\'' :: rest => some (c.toNat, rest)
  | rest => readNumber rest

/-- The end of a line. -/
def atLineEnd (cs : List Char) : Bool := (skipSpaces cs).isEmpty

/-- The operands of a line, as the fields SYM, N and VAL. -/
def readOperands (form : OperandForm) (cs : List Char) : Option (Nat × Nat × Nat) :=
  match form with
  | .plain => if atLineEnd cs then some (0, 0, 0) else none
  | .sym => (readSymbol (skipSpaces cs)).bind (fun p => if atLineEnd p.2 then some (p.1, 0, 0) else none)
  | .count => (readNumber (skipSpaces cs)).bind (fun p => if atLineEnd p.2 then some (0, p.1, 0) else none)
  | .bit =>
    (readNumber (skipSpaces cs)).bind (fun p => if atLineEnd p.2 && decide (p.1 < 2) then some (0, 0, p.1) else none)
  | .symVal =>
    (readSymbol (skipSpaces cs)).bind (fun p =>
      match skipSpaces p.2 with
      | ',' :: rest =>
        (readNumber (skipSpaces rest)).bind (fun q => if atLineEnd q.2 then some (p.1, 0, q.1) else none)
      | _ => none)

/-- R77: the descriptor of a line, unused fields 0; `none` where the line is not of the syntax or a number does not fit
its field. -/
def assembleLine (line : String) : Option Descriptor :=
  let cs := skipSpaces (stripComment line.toList)
  let word := cs.takeWhile (fun c => c != ' ')
  (mnemonicTable.find? (fun r => r.1.toList == word)).bind (fun r =>
    (readOperands r.2.2 (cs.drop word.length)).bind (fun p =>
      if p.1 < 2 ^ 16 ∧ p.2.1 < 2 ^ 32 ∧ p.2.2 < 2 ^ 64 then
        some (packFields r.2.1 (BitVec.ofNat 16 p.1) (BitVec.ofNat 32 p.2.1) (BitVec.ofNat 64 p.2.2))
      else none))

end Sys2Proof.Machine
end

