-- ==== Sys2Proof/Safety.lean ====
section
/-! DEFINITION. What claims call a sound state: the host's duties (20_memory.md R60), and the invariants of the engine
(10_state.md R23 to R31, R33). -/

namespace Sys2Proof.Machine

/-- R60 (b): the host answers every read, in the end with EOF. A claim about a run carries it as a premise (R261). -/
def State.HostDuties (s : State) : Prop := s.inp.tail = .eof ∧ s.symIn.tail = .eof

/-- R27: `0 ≤ BB_LEN ≤ BB_CAP_BITS`. -/
def Engine.BufferBounded (e : Engine) : Prop := e.bb.length ≤ Config.bbCapBits

/-- R28: OBUF holds up to `OBUF_CAP` symbols. -/
def Engine.ObufBounded (e : Engine) : Prop := e.obuf.length ≤ Config.obufCap

/-- R31, R226: with ERR = 0 the four error registers and DROP are 0; with ERR = 1 an error code stands in ERRCODE. -/
def Engine.ErrorRegisters (e : Engine) : Prop :=
  (e.err = false →
    e.drop = false ∧ e.errCode = .noError ∧ e.errOp = 0#8 ∧ e.errInfo0 = 0#64 ∧ e.errInfo1 = 0#64) ∧
  (e.err = true → e.errCode ≠ .noError)

/-- R24, "tree cleared": ROOT, NLEAVES, NNODES, TBL_BYTES and every CT_V are 0 and every record is FREE. -/
def Engine.TreeCleared (e : Engine) : Prop :=
  e.root = 0 ∧ e.nleaves = 0#64 ∧ e.nnodes = 0#64 ∧ e.tblBytes = 0#64 ∧
  (∀ s, e.ctV s = false) ∧ (∀ h, e.kindAt h = .free)

/-- R24 and R30: the tree is cleared whenever TREE_VALID = 0, and SYN_TERM is then 0 too. -/
def Engine.ClearedWithoutTree (e : Engine) : Prop :=
  e.treeValid = false → e.TreeCleared ∧ e.synTerm = false

/-- The registers' invariant: R24, R27, R28, R31. -/
structure Engine.Sound (e : Engine) : Prop where
  buffer : e.BufferBounded
  obuf : e.ObufBounded
  errors : e.ErrorRegisters
  cleared : e.ClearedWithoutTree

/-- The walk of R26 (b) from a record along a path: LEFT on 0, RIGHT on 1. -/
def walkPath (nodes : List Node) : Handle → Path → Option Handle
  | h, [] => some h
  | h, b :: path => (nextNode nodes h b).bind (fun c => walkPath nodes c path)

/-- R174: data symbols, each with a code and none of them TERM. -/
def Engine.DataText (e : Engine) (text : List Sym) : Prop := ∀ x ∈ text, e.ctV x = true ∧ x ≠ e.term

/-- A path from ROOT that ends at the INTERNAL record `h`: where a decoder stands between two leaves. -/
def Engine.EndsInside (e : Engine) (p : Path) (h : Handle) : Prop :=
  walkPath e.nodes e.root p = some h ∧ e.kindAt h = .internal

/-- The state a decoder's raise leaves (R180, R224): `read` bytes consumed from IN, nothing written, the symbols decoded
so far counted and in OBUF (that OBUF keeps them is the model's choice, notes/assumptions/2.md). -/
def State.decodeRaised (s : State) (op : BitVec 8) (code : ErrCode) (info0 info1 : Reg) (text : List Sym)
    (read : Nat) : State :=
  { s with
    inp := { s.inp with units := s.inp.units.drop read }
    eng := { s.eng with
      inCount := BitVec.ofNat 64 read, outCount := 0#64, symCount := BitVec.ofNat 64 text.length, obuf := text
      err := true, errCode := code, errOp := op, errInfo0 := info0, errInfo1 := info1 } }

/-- R123's queue when record `h` is about to be made: the records made before it that are no child of one of them. -/
def Queued (nodes : List Node) (h c : Handle) : Prop :=
  c < h ∧ ∀ (g : Handle) (l r : Option Handle), g < h → nodes[g]? = some (.internal l r) → l ≠ some c ∧ r ≠ some c

/-- Entries that TABLE_IMPORT takes one after another: R156's conditions, R25's path lengths and R23's capacity. -/
structure Importable (entries : List (Sym × Path)) : Prop where
  symbolsDiffer : (entries.map Prod.fst).Nodup
  prefixFree : entries.Pairwise (fun a b => ¬ a.2 <+: b.2 ∧ ¬ b.2 <+: a.2)
  pathLengths : ∀ a ∈ entries, 1 ≤ a.2.length ∧ a.2.length ≤ 255
  arenaBounded : (entries.flatMap (fun a => a.2.inits)).dedup.length ≤ 511

/-- Table text up to where the next entry starts: each of these entries with a SEP after it (R82). -/
def tablePrefix (entries : List (Sym × Path)) : List Byte := entries.flatMap (fun a => entryText a ++ [sepByte])

/-- The prefixes of the entries' paths in the order in which R156 first reaches them: the place of a prefix is the handle
of its record. -/
def prefixOrder (entries : List (Sym × Path)) : List Path := (entries.flatMap (fun a => a.2.inits)).eraseDups

/-- R26 (a) to (e) of a tree and a code table, with R23's capacity, R25's path lengths, R33, and that the arena is a
tree: each allocated record is reached from ROOT by exactly one path. R26 (f) is `TwoLeaves`: the pseudocode of
42_code_table.md R150 does not keep it (notes/assumptions/12.md). -/
structure Engine.UsableTree (e : Engine) : Prop where
  /-- R26 (a). -/
  rootInternal : e.kindAt e.root = .internal
  /-- R26 (b). -/
  pathEndsAtLeaf : ∀ (h : Handle) (s : Sym), e.nodes[h]? = some (.leaf s) → walkPath e.nodes e.root (e.ctPath s) = some h
  /-- R26 (c): CT_V[s] = 1 exactly for the symbols held by leaves. -/
  codesAreLeaves : ∀ s : Sym, e.ctV s = true ↔ ∃ h : Handle, e.nodes[h]? = some (.leaf s)
  /-- R26 (c): no two leaves hold the same symbol. -/
  leavesDiffer : ∀ (h h' : Handle) (s : Sym), e.nodes[h]? = some (.leaf s) → e.nodes[h']? = some (.leaf s) → h = h'
  /-- R26 (d). -/
  prefixFree : ∀ s s', e.ctV s = true → e.ctV s' = true → s ≠ s' → ¬ e.ctPath s <+: e.ctPath s'
  /-- R26 (e). -/
  termHasCode : e.ctV e.term = true
  /-- R25. -/
  pathLengths : ∀ s, e.ctV s = true → 1 ≤ e.ctLen s ∧ e.ctLen s ≤ Config.maxcode
  /-- R23. -/
  arenaBounded : e.nodes.length ≤ Config.nodeCap
  /-- R24: one path to each allocated record. -/
  onePath : ∀ h : Handle, h < e.nodes.length → ∃ p, walkPath e.nodes e.root p = some h ∧
    ∀ q, walkPath e.nodes e.root q = some h → q = p
  /-- R23: LEFT and RIGHT are handles of allocated records, or NONE. -/
  linksAllocated : ∀ (h c : Handle) (l r : Option Handle), e.nodes[h]? = some (.internal l r) →
    l = some c ∨ r = some c → c < e.nodes.length
  /-- R33. -/
  tblBytes : e.tblBytes = BitVec.ofNat 64 (exportText e.ct).length

/-- R26: while TREE_VALID = 1 the tree and the code table are usable. -/
def Engine.TreeInvariant (e : Engine) : Prop := e.treeValid = true → e.UsableTree

/-- R26 (f). -/
def Engine.TwoLeaves (e : Engine) : Prop := 2 ≤ countLeaves e.nodes

/-- R26: a built tree is full, every INTERNAL record having two children. -/
def Engine.FullTree (e : Engine) : Prop :=
  ∀ (h : Handle) (l r : Option Handle), e.nodes[h]? = some (.internal l r) → l.isSome ∧ r.isSome

end Sys2Proof.Machine
end

