-- ==== Sys2Proof/Certificates/Slice0/Obligations.lean ====
section
/-! DEFINITION. The statements for the provers. Each says in its docstring which rule of the spec it formalises. An exact
next state is also a frame: what the record update does not name is unchanged. -/

open Sys2Proof Sys2Proof.Machine

/-! ## Encoding -/

/-- R70 to R77: the descriptor the encoder gives a command decodes to that command, whatever its operands. -/
def Obligations.DecodeOfEncode : Prop := ∀ i : Instr, decode (encode i) = .ok i

/-- R70, R74, R76: a valid descriptor is the encoding of its command, except where R76 ignores bits (RESET, ERR_ACK). -/
def Obligations.EncodeOfDecode : Prop :=
  ∀ (d : Descriptor) (i : Instr), decode d = .ok i → i ≠ .reset → i ≠ .errAck → encode i = d

/-- R74: the field checks accept exactly the descriptors that some row of the match and mask table matches, and no two
rows match the same descriptor. -/
def Obligations.ValidExactlyWhenOneRowMatches : Prop :=
  (∀ d : Descriptor, (∃ i, decode d = .ok i) ↔ wellFormed d = true) ∧
  (∀ (d : Descriptor) (r r' : DescriptorRow), r ∈ descriptorTable → r' ∈ descriptorTable →
    r.matches d = true → r'.matches d = true → r = r')

/-- R74's order: (1) an unknown OP comes first, whatever the other bits; (3) is met only where SYM is out of range and
the other checks pass. -/
def Obligations.IllegalReasonsInOrder : Prop :=
  (∀ d : Descriptor, decode d = .illegal .unknownOp ↔ knownOp d = false) ∧
  (∀ d : Descriptor, decode d = .illegal .symRange ↔
    256 ≤ (symField d).toNat ∧ rsvField d = 0#8 ∧ nField d = 0#32 ∧
    ((opField d = 0x03#8 ∧ valField d = 0#64) ∨ (opField d = 0x23#8 ∧ valField d = 0#64) ∨ opField d = 0x11#8))

/-- Words written out from R70 and R73, one or more of each family: R77's FREQ_SET 'a', 5; SET_TERM '$'; BUILD;
TABLE_IMPORT 20; CT_READ 'z'; ENCODE 3; DECODE_STREAM 100; BB_APPEND 1; BB_GET 3; and RESET with every field set (CL-9). -/
def Obligations.SampleWordsDecode : Prop :=
  decodeTableWord 128 0x00000000000000050000000000610011 = some (.freqSet 0x61#8 5#64) ∧
  decodeTableWord 128 0x00000000000000000000000000240003 = some (.setTerm 0x24#8) ∧
  decodeTableWord 128 0x00000000000000000000000000000020 = some .build ∧
  decodeTableWord 128 0x00000000000000000000001400000022 = some (.tableImport 20#32) ∧
  decodeTableWord 128 0x000000000000000000000000007A0023 = some (.ctRead 0x7A#8) ∧
  decodeTableWord 128 0x00000000000000000000000300000030 = some (.encode 3#32) ∧
  decodeTableWord 128 0x00000000000000000000006400000032 = some (.decodeStream 100#32) ∧
  decodeTableWord 128 0x00000000000000010000000000000041 = some (.bbAppend true) ∧
  decodeTableWord 128 0x00000000000000000000000300000042 = some (.bbGet 3#32) ∧
  decodeTableWord 128 0x00000000000000030000000900550401 = some .reset

/-- R52 (a): a descriptor carried as its 16 bytes, byte `k` being `d[8k+7:8k]`, is read back whole. -/
def Obligations.CarrierBytesReadBack : Prop :=
  ∀ d : Descriptor, (bytesOfDescriptor d).length = 16 ∧ descriptorOfBytes (bytesOfDescriptor d) = some d

/-! ## Steps, errors, dropping -/

/-- R55, R38: the step takes the host's next descriptor off the port and runs the command it decodes to. -/
def Obligations.StepRunsDecodedCommand : Prop :=
  ∀ (s : State) (d : Descriptor) (i : Instr) (rest : List HostAction),
    s.host = .command d :: rest → decode d = .ok i → step s = exec i { s with host := rest }

/-- R74, R221, R228: with ERR = 0 a descriptor that is not valid zeroes the counters and raises ILLEGAL(OP, reason), the
reason being 1 for an unknown OP, 2 for a field that must be 0, 3 for SYM out of range. -/
def Obligations.IllegalDescriptorRaises : Prop :=
  (reasonCode .unknownOp = 1#64 ∧ reasonCode .reservedField = 2#64 ∧ reasonCode .symRange = 3#64) ∧
  ∀ (s : State) (d : Descriptor) (r : IllegalReason) (rest : List HostAction),
    s.host = .command d :: rest → decode d = .illegal r → s.eng.err = false →
    step s = .next { s with
      host := rest
      eng := { s.eng with
        inCount := 0#64, outCount := 0#64, symCount := 0#64
        err := true, errCode := .illegal, errOp := opField d
        errInfo0 := (opField d).setWidth 64, errInfo1 := reasonCode r } }

/-- R226: while ERR = 1 a descriptor, valid or not, whose OP is neither RESET nor ERR_ACK only sets DROP. -/
def Obligations.DroppedWhileError : Prop :=
  ∀ (s : State) (d : Descriptor) (rest : List HostAction),
    s.host = .command d :: rest → s.eng.err = true → opField d ≠ 0x01#8 → opField d ≠ 0x02#8 →
    step s = .next { s with host := rest, eng := { s.eng with drop := true } }

/-- R224: `raise E(i0, i1)` from a descriptor whose OP is `op` writes ERR, ERRCODE, ERR_OP and the info words, and
changes nothing else of the state the command has reached. -/
def Obligations.ErrorEntryWrites : Prop :=
  ∀ (op : BitVec 8) (s : State) (code : ErrCode) (i0 i1 : Reg),
    finish op (.raised s code i0 i1) = .next { s with
      eng := { s.eng with err := true, errCode := code, errOp := op, errInfo0 := i0, errInfo1 := i1 } }

/-- R227: each of the five commands that need a tree raises NO_TREE(OP, 0) where TREE_VALID = 0, with no other effect
than the counters' zeroing (R34). -/
def Obligations.NoTreeError : Prop :=
  ∀ (s : State) (i : Instr), s.eng.err = false → s.eng.treeValid = false →
    (i = .tableExport ∨ (∃ x, i = .ctRead x) ∨ (∃ n, i = .encode n) ∨ i = .decodeBb ∨ (∃ n, i = .decodeStream n)) →
    exec i s = .next { s with
      eng := { s.eng with
        inCount := 0#64, outCount := 0#64, symCount := 0#64
        err := true, errCode := .noTree, errOp := opcode i
        errInfo0 := (opcode i).setWidth 64, errInfo1 := 0#64 } }

/-- R60 (b), (d), (e), R235: the host's moves that are no command leave the engine alone, and with no move left the
machine holds its state. That a host which consumes more bytes than IN holds takes what there is, is the model's choice
(notes/assumptions/14.md), as is the place where register values are kept (notes/assumptions/7.md). -/
def Obligations.HostMovesBetweenCommands : Prop :=
  ∀ (s : State) (rest : List HostAction),
    (s.host = [] → step s = .next s) ∧
    (∀ bytes tail, s.host = .supplyIn bytes tail :: rest →
      step s = .next { s with host := rest, inp := { units := s.inp.units ++ bytes, tail := tail } }) ∧
    (∀ syms tail, s.host = .supplySym syms tail :: rest →
      step s = .next { s with host := rest, symIn := { units := s.symIn.units ++ syms, tail := tail } }) ∧
    (∀ k, s.host = .consumeIn k :: rest →
      step s = .next { s with host := rest, inp := { s.inp with units := s.inp.units.drop k } }) ∧
    (∀ o, s.host = .readRegister o :: rest →
      step s = .next { s with host := rest, readData := s.readData ++ [readReg s.eng o] })

/-- R36, R30, R35, R220: the register port, offset by offset, with the number of each error code; any other offset, among
them every one that is not a multiple of 8, reads 0. -/
def Obligations.RegisterPort : Prop :=
  ∀ e : Engine,
    (readReg e 0x00 = BitVec.ofNat 64
      (e.err.toNat + 2 * e.drop.toNat + 4 * e.treeValid.toNat + 8 * e.synTerm.toNat)) ∧
    readReg e 0x08 = (errNumber e.errCode).setWidth 64 ∧ readReg e 0x10 = e.errOp.setWidth 64 ∧
    readReg e 0x18 = e.errInfo0 ∧ readReg e 0x20 = e.errInfo1 ∧ readReg e 0x28 = e.term.setWidth 64 ∧
    readReg e 0x30 = BitVec.ofNat 64 e.bb.length ∧ readReg e 0x38 = e.result ∧
    readReg e 0x40 = BitVec.ofNat 64 (e.nodes.countP isLeaf) ∧ readReg e 0x48 = BitVec.ofNat 64 e.nodes.length ∧
    readReg e 0x50 = BitVec.ofNat 64 e.root ∧ readReg e 0x58 = e.tblBytes ∧ readReg e 0x60 = e.inCount ∧
    readReg e 0x68 = e.outCount ∧ readReg e 0x70 = e.symCount ∧ readReg e 0x78 = 8#64 ∧
    readReg e 0x80 = 524288#64 ∧ readReg e 0x88 = 4096#64 ∧
    (∀ o, o % 8 ≠ 0 ∨ 0x88 < o → readReg e o = 0#64) ∧
    errNumber .noError = 0#8 ∧ errNumber .alphabet = 1#8 ∧ errNumber .malformed = 2#8 ∧ errNumber .truncation = 3#8 ∧
    errNumber .capacity = 4#8 ∧ errNumber .corruptTable = 5#8 ∧ errNumber .emptyAlphabet = 6#8 ∧
    errNumber .range = 7#8 ∧ errNumber .illegal = 8#8 ∧ errNumber .noTree = 9#8 ∧ errNumber .resource = 10#8

/-- R250: the engine after reset, every register the rule gives a value. TERM is the open parameter, and OBUF and F are
unspecified: nothing is said of them. -/
def Obligations.ResetState : Prop :=
  (∀ x : Sym, State.reset.eng.freqV x = false ∧ State.reset.eng.freqAt x = 0) ∧
  (∀ h : Handle, State.reset.eng.kindAt h = .free) ∧
  (∀ x : Sym, State.reset.eng.ctV x = false ∧ State.reset.eng.ctLen x = 0 ∧ State.reset.eng.ctPath x = []) ∧
  (∀ i : Nat, State.reset.eng.bbBit i = false) ∧ State.reset.eng.bbLen = 0#64 ∧
  State.reset.eng.root = 0 ∧ State.reset.eng.nleaves = 0#64 ∧ State.reset.eng.nnodes = 0#64 ∧
  State.reset.eng.status = 0#64 ∧ State.reset.eng.errCode = .noError ∧ State.reset.eng.errOp = 0#8 ∧
  State.reset.eng.errInfo0 = 0#64 ∧ State.reset.eng.errInfo1 = 0#64 ∧ State.reset.eng.result = 0#64 ∧
  State.reset.eng.tblBytes = 0#64 ∧ State.reset.eng.inCount = 0#64 ∧ State.reset.eng.outCount = 0#64 ∧
  State.reset.eng.symCount = 0#64 ∧ State.reset.eng.term = Config.termReset

/-! ## Control commands -/

/-- R200: NOP zeroes the counters and does nothing else; it is dropped while ERR = 1; OP 0x00 with any other bit set is
ILLEGAL reason 2. -/
def Obligations.NopCommand : Prop :=
  (∀ s : State, s.eng.err = false →
    exec .nop s = .next { s with eng := { s.eng with inCount := 0#64, outCount := 0#64, symCount := 0#64 } }) ∧
  (∀ s : State, s.eng.err = true → exec .nop s = .next { s with eng := { s.eng with drop := true } }) ∧
  decode 0#128 = .ok .nop ∧
  (∀ d : Descriptor, opField d = 0x00#8 → d ≠ 0#128 → decode d = .illegal .reservedField)

/-- R201, R251: from any state, ERR = 1 or not, RESET and a hardware reset give the reset engine and touch no stream;
only OP decides that a descriptor is RESET. That OBUF and F, which R250 leaves unspecified, are those of `State.reset` is
the model's choice (notes/assumptions/2.md, notes/assumptions/3.md). -/
def Obligations.ResetCommand : Prop :=
  (∀ s : State, exec .reset s = .next { s with eng := State.reset.eng }) ∧
  (∀ d : Descriptor, opField d = 0x01#8 → decode d = .ok .reset) ∧
  (∀ (s : State) (rest : List HostAction), s.host = .assertReset :: rest →
    step s = .next { s with host := rest, eng := State.reset.eng })

/-- R202, R204, R225: from any state ERR_ACK clears ERR, DROP and the error registers, zeroes the counters and changes
nothing else; only OP decides that a descriptor is ERR_ACK. -/
def Obligations.ErrAckCommand : Prop :=
  (∀ s : State, exec .errAck s = .next { s with
    eng := { s.eng with
      inCount := 0#64, outCount := 0#64, symCount := 0#64
      err := false, drop := false, errCode := .noError, errOp := 0#8, errInfo0 := 0#64, errInfo1 := 0#64 } }) ∧
  (∀ d : Descriptor, opField d = 0x02#8 → decode d = .ok .errAck)

/-- R203: SET_TERM writes TERM and clears the tree and SYN_TERM, even where the value is the same; ILLEGAL reasons 2
and 3. -/
def Obligations.SetTermCommand : Prop :=
  (∀ (s : State) (t : Sym), s.eng.err = false →
    exec (.setTerm t) s = .next { s with
      eng := { s.eng with
        inCount := 0#64, outCount := 0#64, symCount := 0#64
        term := t, synTerm := false
        treeValid := false, nodes := [], root := 0, tblBytes := 0#64, ct := Vector.replicate 256 none } }) ∧
  (∀ d : Descriptor, opField d = 0x03#8 → rsvField d ≠ 0#8 ∨ nField d ≠ 0#32 ∨ valField d ≠ 0#64 →
    decode d = .illegal .reservedField) ∧
  (∀ d : Descriptor, opField d = 0x03#8 → rsvField d = 0#8 → nField d = 0#32 → valField d = 0#64 →
    decode d = if 256 ≤ (symField d).toNat then .illegal .symRange else .ok (.setTerm ((symField d).setWidth 8)))

/-! ## The frequency table -/

/-- R121: FREQ_CLEAR makes every entry absent; the tree and the code table are unchanged (R133). -/
def Obligations.FreqClearCommand : Prop :=
  ∀ s : State, s.eng.err = false →
    ∃ t, exec .freqClear s = .next t ∧ (∀ x : Sym, t.eng.freqV x = false ∧ t.eng.freqAt x = 0) ∧
      t = { s with eng := { s.eng with inCount := 0#64, outCount := 0#64, symCount := 0#64, freq := t.eng.freq } }

/-- R122: FREQ_SET x, v makes x present with count v, replacing any earlier count, and leaves every other entry, the tree
and the code table; ILLEGAL reasons 2 and 3. -/
def Obligations.FreqSetCommand : Prop :=
  (∀ (s : State) (x : Sym) (v : BitVec 64), s.eng.err = false →
    ∃ t, exec (.freqSet x v) s = .next t ∧ t.eng.freqV x = true ∧ t.eng.freqAt x = v ∧
      (∀ y : Sym, y ≠ x → t.eng.freqV y = s.eng.freqV y ∧ t.eng.freqAt y = s.eng.freqAt y) ∧
      t = { s with eng := { s.eng with inCount := 0#64, outCount := 0#64, symCount := 0#64, freq := t.eng.freq } }) ∧
  (∀ d : Descriptor, opField d = 0x11#8 → rsvField d ≠ 0#8 ∨ nField d ≠ 0#32 → decode d = .illegal .reservedField) ∧
  (∀ d : Descriptor, opField d = 0x11#8 → rsvField d = 0#8 → nField d = 0#32 →
    decode d = if 256 ≤ (symField d).toNat then .illegal .symRange
      else .ok (.freqSet ((symField d).setWidth 8) (valField d)))

/-! ## The bit buffer -/

/-- R102: BB_CLEAR empties the buffer; OP 0x40 with any other bit set is ILLEGAL reason 2. -/
def Obligations.BbClearCommand : Prop :=
  (∀ s : State, s.eng.err = false →
    exec .bbClear s = .next { s with
      eng := { s.eng with inCount := 0#64, outCount := 0#64, symCount := 0#64, bb := [] } }) ∧
  (∀ d : Descriptor, opField d = 0x40#8 → decode d = if d = 0x40#128 then .ok .bbClear else .illegal .reservedField)

/-- R103: BB_APPEND b appends one bit, or raises RESOURCE(1, BB_CAP_BITS + 1) on a full buffer and leaves it; any bit of
`d[127:65]` makes it ILLEGAL reason 2. -/
def Obligations.BbAppendCommand : Prop :=
  (∀ (s : State) (b : Bool), s.eng.err = false → s.eng.bb.length < 524288 →
    exec (.bbAppend b) s = .next { s with
      eng := { s.eng with inCount := 0#64, outCount := 0#64, symCount := 0#64, bb := s.eng.bb ++ [b] } }) ∧
  (∀ (s : State) (b : Bool), s.eng.err = false → s.eng.bb.length = 524288 →
    exec (.bbAppend b) s = .next { s with
      eng := { s.eng with
        inCount := 0#64, outCount := 0#64, symCount := 0#64
        err := true, errCode := .resource, errOp := 0x41#8, errInfo0 := 1#64, errInfo1 := 524289#64 } }) ∧
  (∀ d : Descriptor, opField d = 0x41#8 → 2 ≤ (valField d).toNat → decode d = .illegal .reservedField)

/-- R104: BB_GET i puts bit i into RESULT for i < BB_LEN, and raises RANGE(i, BB_LEN) from BB_LEN on, inside the last
byte's padding too. -/
def Obligations.BbGetCommand : Prop :=
  (∀ (s : State) (i : BitVec 32) (b : Bool), s.eng.err = false → s.eng.bb[i.toNat]? = some b →
    exec (.bbGet i) s = .next { s with
      eng := { s.eng with
        inCount := 0#64, outCount := 0#64, symCount := 0#64, result := BitVec.ofNat 64 b.toNat } }) ∧
  (∀ (s : State) (i : BitVec 32), s.eng.err = false → s.eng.bb.length ≤ i.toNat →
    exec (.bbGet i) s = .next { s with
      eng := { s.eng with
        inCount := 0#64, outCount := 0#64, symCount := 0#64
        err := true, errCode := .range, errOp := 0x42#8
        errInfo0 := i.setWidth 64, errInfo1 := BitVec.ofNat 64 s.eng.bb.length } }) ∧
  (∀ i : BitVec 32, decode (packFields 0x42#8 0#16 i 0#64) = .ok (.bbGet i))

/-- R105: BB_EMIT writes the packed bytes to OUT, `ceil(BB_LEN/8)` of them, and keeps the buffer; OP 0x43 with any other
bit set is ILLEGAL reason 2. -/
def Obligations.BbEmitCommand : Prop :=
  (∀ s : State, s.eng.err = false →
    exec .bbEmit s = .next { s with
      out := s.out ++ packBytes s.eng.bb
      eng := { s.eng with
        inCount := 0#64, symCount := 0#64, outCount := BitVec.ofNat 64 ((s.eng.bb.length + 7) / 8) } }) ∧
  (∀ d : Descriptor, opField d = 0x43#8 → decode d = if d = 0x43#128 then .ok .bbEmit else .illegal .reservedField)

/-- R106: BB_LOAD n fills the buffer from n bytes of IN; RESOURCE(1, 8n) before any read, TRUNCATION(n, j) with the j
bytes kept. -/
def Obligations.BbLoadCommand : Prop :=
  (∀ (s : State) (n : BitVec 32), s.eng.err = false → 8 * n.toNat ≤ 524288 → n.toNat ≤ s.inp.units.length →
    exec (.bbLoad n) s = .next { s with
      inp := { s.inp with units := s.inp.units.drop n.toNat }
      eng := { s.eng with
        inCount := BitVec.ofNat 64 n.toNat, outCount := 0#64, symCount := 0#64
        bb := bytesToBits (s.inp.units.take n.toNat) } }) ∧
  (∀ (s : State) (n : BitVec 32), s.eng.err = false → 524288 < 8 * n.toNat →
    exec (.bbLoad n) s = .next { s with
      eng := { s.eng with
        inCount := 0#64, outCount := 0#64, symCount := 0#64
        err := true, errCode := .resource, errOp := 0x44#8
        errInfo0 := 1#64, errInfo1 := BitVec.ofNat 64 (8 * n.toNat) } }) ∧
  (∀ (s : State) (n : BitVec 32), s.eng.err = false → 8 * n.toNat ≤ 524288 → s.inp.units.length < n.toNat →
    s.inp.tail = .eof →
    exec (.bbLoad n) s = .next { s with
      inp := { s.inp with units := [] }
      eng := { s.eng with
        inCount := BitVec.ofNat 64 s.inp.units.length, outCount := 0#64, symCount := 0#64
        bb := bytesToBits s.inp.units
        err := true, errCode := .truncation, errOp := 0x44#8
        errInfo0 := n.setWidth 64, errInfo1 := BitVec.ofNat 64 s.inp.units.length } }) ∧
  (∀ n : BitVec 32, decode (packFields 0x44#8 0#16 n 0#64) = .ok (.bbLoad n))

/-- R259, 93 U15: a command that needs a unit the host withholds is stuck, and that is no error of the block.
DECODE_STREAM needs one where IN is empty, and where the bytes at hand end before TERM: after any data symbols and any
part of a path. -/
def Obligations.StuckOnWithheldStream : Prop :=
  (∀ (s : State) (n : BitVec 32), s.eng.err = false → 8 * n.toNat ≤ 524288 → s.inp.units.length < n.toNat →
    s.inp.tail = .withheld →
    exec (.bbLoad n) s = .fault .stuckIn ∧ exec (.tableImport n) s = .fault .stuckIn) ∧
  (∀ (s : State) (n : BitVec 32), s.eng.err = false → s.eng.treeValid = true → s.symIn.units.length < n.toNat →
    s.symIn.tail = .withheld → (∀ x ∈ s.symIn.units, s.eng.ctV x = true) →
    (s.symIn.units.flatMap s.eng.ctPath).length ≤ 524288 → exec (.encode n) s = .fault .stuckSymIn) ∧
  (∀ (s : State) (cap : BitVec 32), s.eng.err = false → s.eng.treeValid = true → s.inp.units = [] →
    s.inp.tail = .withheld → exec (.decodeStream cap) s = .fault .stuckIn) ∧
  (∀ (s : State) (cap : BitVec 32) (text : List Sym) (p : Path) (h : Handle), s.eng.err = false →
    s.eng.treeValid = true → s.eng.UsableTree → s.eng.DataText text → text.length ≤ 4096 → text.length ≤ cap.toNat →
    s.eng.EndsInside p h → bytesToBits s.inp.units = text.flatMap s.eng.ctPath ++ p → s.inp.tail = .withheld →
    exec (.decodeStream cap) s = .fault .stuckIn)

/-- R107 (c): BB_LOAD n and then BB_EMIT write back exactly the n bytes read. -/
def Obligations.LoadThenEmitWritesBack : Prop :=
  ∀ (s t : State) (n : BitVec 32), s.eng.err = false → 8 * n.toNat ≤ 524288 → n.toNat ≤ s.inp.units.length →
    exec (.bbLoad n) s = .next t →
    ∃ u, exec .bbEmit t = .next u ∧ u.out = s.out ++ s.inp.units.take n.toNat

/-- R101, R12, R51: `BBBytes()` has `ceil(length/8)` bytes; bit i of the sequence is bit `7 - (i mod 8)` of byte
`i div 8`; the unused trailing bits are 0. -/
def Obligations.PackedBitsMsbFirst : Prop :=
  ∀ bits : List Bool,
    (packBytes bits).length = (bits.length + 7) / 8 ∧
    (∀ j k : Nat, j < (packBytes bits).length → k < 8 →
      ((packBytes bits)[j]?.getD 0#8).getLsbD (7 - k) = bits.getD (8 * j + k) false)

/-! ## BUILD -/

/-- R125, R133: with no present symbol other than TERM, BUILD raises EMPTY_ALPHABET(p, 0), p being 1 where the terminator
alone is present, and leaves the tree cleared, SYN_TERM 0 and RESULT unchanged. -/
def Obligations.BuildEmptyAlphabet : Prop :=
  ∀ s : State, s.eng.err = false → (∀ x : Sym, x ≠ s.eng.term → s.eng.freqV x = false) →
    exec .build s = .next { s with
      eng := { s.eng with
        inCount := 0#64, outCount := 0#64, symCount := 0#64, synTerm := false
        treeValid := false, nodes := [], root := 0, tblBytes := 0#64, ct := Vector.replicate 256 none
        err := true, errCode := .emptyAlphabet, errOp := 0x20#8
        errInfo0 := if s.eng.freqV s.eng.term then 1#64 else 0#64, errInfo1 := 0#64 } }

/-- R123, R124, R128, R131: with a present symbol other than TERM, BUILD completes with TREE_VALID = 1; the leaves take
the first handles in ascending symbol order and every other record has two children; NNODES = 2*NLEAVES - 1 and ROOT =
NNODES - 1; RESULT is TERM's own count, or half the largest count; nothing but the tree's state, SYN_TERM, RESULT,
TBL_BYTES and the counters changes. -/
def Obligations.BuildCompletes : Prop :=
  ∀ (s : State) (x : Sym), s.eng.err = false → x ≠ s.eng.term → s.eng.freqV x = true →
    ∃ (nodes : List Node) (nodeF : List (BitVec 72)) (ct : CodeTable) (tf : BitVec 64) (internals : List Node),
      exec .build s = .next { s with
        eng := { s.eng with
          inCount := 0#64, outCount := 0#64, symCount := 0#64
          nodes := nodes, nodeF := nodeF, root := nodes.length - 1, ct := ct, treeValid := true
          synTerm := !(s.eng.freqV s.eng.term), result := tf
          tblBytes := BitVec.ofNat 64 (exportText ct).length } } ∧
      nodes = (allSyms.filter (fun y => s.eng.freqV y || y == s.eng.term)).map Node.leaf ++ internals ∧
      (∀ r ∈ internals, ∃ a b, r = .internal (some a) (some b)) ∧
      nodes.length = 2 * countLeaves nodes - 1 ∧
      (s.eng.freqV s.eng.term = true → tf = s.eng.freqAt s.eng.term) ∧
      (s.eng.freqV s.eng.term = false → ∃ y, s.eng.freqV y = true ∧
        (∀ z, s.eng.freqV z = true → s.eng.freqAt z ≤ s.eng.freqAt y) ∧
        tf.toNat = (s.eng.freqAt y).toNat / 2)

/-- R132 (a) to (e), R26: a successful BUILD gives a full tree with the invariants of R26, its symbols being the present
ones and TERM, and no path longer than NLEAVES - 1. -/
def Obligations.BuiltTreeIsFullAndPrefixFree : Prop :=
  ∀ (s t : State), s.eng.err = false → exec .build s = .next t → t.eng.err = false →
    t.eng.UsableTree ∧ t.eng.FullTree ∧ t.eng.TwoLeaves ∧
    (∀ x : Sym, t.eng.ctV x = true ↔ s.eng.freqV x = true ∨ x = s.eng.term) ∧
    (∀ x : Sym, t.eng.ctV x = true → t.eng.ctLen x ≤ countLeaves t.eng.nodes - 1)

/-- R126: after BUILD, F of the root is the exact sum of the leaves' counts: no 72-bit sum has wrapped. R23 makes F
unobservable once BUILD has ended: that it can still be read there is the model's choice (notes/assumptions/3.md). -/
def Obligations.RootFrequencyIsExactSum : Prop :=
  ∀ (s t : State), s.eng.err = false → exec .build s = .next t → t.eng.err = false →
    (t.eng.nodeF[t.eng.root]?).map BitVec.toNat =
      some (((allSyms.filter (fun x => x ≠ s.eng.term)).map (fun x => (s.eng.freqAt x).toNat)).sum +
        t.eng.result.toNat)

/-- R123's loop, R126, R127, R129: each extraction takes the queued node with the least frequency, among equal
frequencies the one with the least handle, and leaves the others queued. In a built tree every INTERNAL record has as LEFT
the least and as RIGHT the second least of the nodes queued when it was made, and its frequency is their exact sum, a
leaf's being its count. -/
def Obligations.LeastNodeExtracted : Prop :=
  (∀ q : List QItem, q ≠ [] →
    ∃ m rest, extractLeast q = some (m, rest) ∧ q.Perm (m :: rest) ∧
      ∀ x ∈ rest, m.f < x.f ∨ (m.f = x.f ∧ m.h ≤ x.h)) ∧
  (∀ s t : State, s.eng.err = false → exec .build s = .next t → t.eng.err = false →
    ∃ F : Handle → Nat,
      (∀ (h : Handle) (x : Sym), t.eng.nodes[h]? = some (.leaf x) →
        F h = if x = s.eng.term then t.eng.result.toNat else (s.eng.freqAt x).toNat) ∧
      (∀ (h : Handle) (l r : Option Handle), t.eng.nodes[h]? = some (.internal l r) →
        ∃ a b, l = some a ∧ r = some b ∧ a ≠ b ∧ Queued t.eng.nodes h a ∧ Queued t.eng.nodes h b ∧ F h = F a + F b ∧
          (∀ c, Queued t.eng.nodes h c → c ≠ a → F a < F c ∨ (F a = F c ∧ a < c)) ∧
          (∀ c, Queued t.eng.nodes h c → c ≠ a → c ≠ b → F b < F c ∨ (F b = F c ∧ b < c))))

/-- R132 (f), R68: BUILD's tree, code table, RESULT and TBL_BYTES depend on FREQ, FREQ_V and TERM alone. -/
def Obligations.BuildDependsOnFrequenciesAndTerm : Prop :=
  ∀ (s s' t t' : State), s.eng.err = false → s'.eng.err = false →
    s.eng.freq = s'.eng.freq → s.eng.term = s'.eng.term →
    exec .build s = .next t → exec .build s' = .next t' →
    t.eng.nodes = t'.eng.nodes ∧ t.eng.root = t'.eng.root ∧ t.eng.ct = t'.eng.ct ∧
    t.eng.treeValid = t'.eng.treeValid ∧ t.eng.synTerm = t'.eng.synTerm ∧ t.eng.tblBytes = t'.eng.tblBytes ∧
    (t.eng.err = false → t.eng.result = t'.eng.result) ∧ t.eng.err = t'.eng.err

/-! ## The code table -/

/-- R140, R142, R143: with a tree, TABLE_EXPORT writes the table text and changes nothing else than OUT_COUNT, which
becomes TBL_BYTES where the tree meets R26 and R33. -/
def Obligations.TableExportCommand : Prop :=
  ∀ s : State, s.eng.err = false → s.eng.treeValid = true →
    exec .tableExport s = .next { s with
      out := s.out ++ exportText s.eng.ct
      eng := { s.eng with
        inCount := 0#64, symCount := 0#64, outCount := BitVec.ofNat 64 (exportText s.eng.ct).length } } ∧
    (s.eng.UsableTree → BitVec.ofNat 64 (exportText s.eng.ct).length = s.eng.tblBytes)

/-- R81, R83, R140, R143: the table text, at SYMW = 8: for each symbol with a code, in ascending order, its byte, `:` and
the digits of its path; `;` between two entries and none after the last. Its length is the sum of `2 + CT_LEN` over the
entries, plus one separator fewer than entries. -/
def Obligations.ExportTextForm : Prop :=
  ∀ ct : CodeTable,
    exportText ct = ((allSyms.filterMap (fun x => (symGet ct x).map
      (fun p => x :: 0x3A#8 :: p.map (fun b => if b then 0x31#8 else 0x30#8)))).intersperse [0x3B#8]).flatten ∧
    (exportText ct).length =
      ((allSyms.filterMap (symGet ct)).map (fun p => 2 + p.length)).sum + ((allSyms.filterMap (symGet ct)).length - 1)

/-- R143: the export of a built table has at most 33662 bytes. -/
def Obligations.BuiltExportLengthBound : Prop :=
  ∀ (s t : State), s.eng.err = false → exec .build s = .next t → t.eng.err = false →
    (exportText t.eng.ct).length ≤ 33662

/-- R144: with a tree, CT_READ x puts the path of x into the buffer and its length into RESULT, or raises ALPHABET(x, 0)
with the buffer and RESULT unchanged. -/
def Obligations.CtReadCommand : Prop :=
  (∀ (s : State) (x : Sym) (p : Path), s.eng.err = false → s.eng.treeValid = true → symGet s.eng.ct x = some p →
    exec (.ctRead x) s = .next { s with
      eng := { s.eng with
        inCount := 0#64, outCount := 0#64, symCount := 0#64
        bb := p, result := BitVec.ofNat 64 p.length } }) ∧
  (∀ (s : State) (x : Sym), s.eng.err = false → s.eng.treeValid = true → symGet s.eng.ct x = none →
    exec (.ctRead x) s = .next { s with
      eng := { s.eng with
        inCount := 0#64, outCount := 0#64, symCount := 0#64
        err := true, errCode := .alphabet, errOp := 0x23#8, errInfo0 := x.setWidth 64, errInfo1 := 0#64 } })

/-- R82, R150 to R158: TABLE_IMPORT accepts every text of the grammar, entries in any order and one trailing separator
allowed, whose symbols differ, whose paths are prefix-free and 1 to 255 bits long, whose tree fits the arena and which
has TERM; it gives that code table, one leaf an entry, one record a path prefix, ROOT 0, and the canonical TBL_BYTES. In
the rebuilt tree the walks from record 0 are the path prefixes, the handle a prefix leads to being its place in the order
of first creation, and each entry's path leads to a leaf that holds its symbol. That a table of one entry, TERM's, is
among them, against R26 (f), is read from R150, R157 and D31 (the model's reading, notes/assumptions/12.md). -/
def Obligations.ImportAcceptsPrefixFreeTable : Prop :=
  ∀ (s : State) (n : BitVec 32) (entries : List (Sym × Path)) (trailing : Bool) (rest : List Byte),
    let table := joinEntries (entries.map entryText)
    let text := table ++ (if trailing then [0x3B#8] else [])
    s.eng.err = false → s.inp.units = text ++ rest → n.toNat = text.length → 8 * text.length ≤ 524288 →
    (entries.map Prod.fst).Nodup →
    entries.Pairwise (fun a b => ¬ a.2 <+: b.2 ∧ ¬ b.2 <+: a.2) →
    (∀ a ∈ entries, 1 ≤ a.2.length ∧ a.2.length ≤ 255) →
    (entries.flatMap (fun a => a.2.inits)).dedup.length ≤ 511 →
    (∃ p, (s.eng.term, p) ∈ entries) →
    ∃ (nodes : List Node) (ct : CodeTable),
      exec (.tableImport n) s = .next { s with
        inp := { s.inp with units := rest }
        eng := { s.eng with
          inCount := BitVec.ofNat 64 text.length, outCount := 0#64, symCount := 0#64
          bb := bytesToBits text, synTerm := false, treeValid := true
          nodes := nodes, root := 0, ct := ct, tblBytes := BitVec.ofNat 64 table.length } } ∧
      (∀ (x : Sym) (p : Path), symGet ct x = some p ↔ (x, p) ∈ entries) ∧
      countLeaves nodes = entries.length ∧
      nodes.length = (entries.flatMap (fun a => a.2.inits)).dedup.length ∧
      (∀ (q : Path) (h : Handle), walkPath nodes 0 q = some h ↔ (prefixOrder entries)[h]? = some q) ∧
      (∀ (x : Sym) (p : Path), (x, p) ∈ entries → ∃ h, walkPath nodes 0 p = some h ∧ nodes[h]? = some (.leaf x))

/-- R150 to R153, R155, R156: why and where an import ends, no later byte being examined. After any accepted entries, an
entry that conflicts with them ends it at the offset of its CHAR, with DUPLICATE_SYMBOL first, else THROUGH_LEAF,
DUPLICATE_PATH or PREFIX_OF_EARLIER, and one that conflicts with none but needs a 512th record fills the arena: at the
end of the text or in its middle, whatever byte follows its digits (Insert comes before the separator's syntax). Likewise
after any accepted entries, none among them: SYNTAX for no text at all, for a text that ends after CHAR, for another byte
than COLON after CHAR, and for another byte than a DIGIT or SEP after a path; EMPTY_PATH and PATH_TOO_LONG, whatever
follows; NO_TERMINATOR at the end of the text, a trailing separator or not. -/
def Obligations.ImportRejectsConflict : Prop :=
  (∀ (term : Sym) (entries : List (Sym × Path)) (x : Sym) (p : Path) (more : List Byte),
    Importable entries → 1 ≤ p.length → p.length ≤ 255 →
    (more = [] ∨ ∃ (y : Byte) (later : List Byte), more = y :: later ∧ y ≠ 0x30#8 ∧ y ≠ 0x31#8) →
    let e := (tablePrefix entries).length
    let r := importText term (tablePrefix entries ++ entryText (x, p) ++ more)
    (x ∈ entries.map Prod.fst → r = .error (.corrupt e .duplicateSymbol)) ∧
    (x ∉ entries.map Prod.fst → (∃ a ∈ entries, a.2 <+: p ∧ a.2 ≠ p) → r = .error (.corrupt e .throughLeaf)) ∧
    (x ∉ entries.map Prod.fst → (∃ a ∈ entries, a.2 = p) → r = .error (.corrupt e .duplicatePath)) ∧
    (x ∉ entries.map Prod.fst → (∃ a ∈ entries, p <+: a.2 ∧ a.2 ≠ p) → r = .error (.corrupt e .prefixOfEarlier)) ∧
    (x ∉ entries.map Prod.fst → (∀ a ∈ entries, ¬ a.2 <+: p ∧ ¬ p <+: a.2) →
      511 < ((entries ++ [(x, p)]).flatMap (fun a => a.2.inits)).dedup.length → r = .error .arenaFull)) ∧
  (∀ (term : Sym) (entries : List (Sym × Path)) (x : Sym) (more : List Byte), Importable entries →
    let o := (tablePrefix entries).length
    let stop := fun (rest : List Byte) => importText term (tablePrefix entries ++ rest)
    importText term [] = .error (.corrupt 0 .badText) ∧
    stop [x] = .error (.corrupt (o + 1) .badText) ∧
    (∀ y : Byte, y ≠ 0x3A#8 → stop (x :: y :: more) = .error (.corrupt (o + 1) .badText)) ∧
    (∀ (p : Path) (y : Byte), Importable (entries ++ [(x, p)]) → y ≠ 0x30#8 → y ≠ 0x31#8 → y ≠ 0x3B#8 →
      stop (entryText (x, p) ++ y :: more) = .error (.corrupt (o + 2 + p.length) .badText)) ∧
    stop [x, 0x3A#8] = .error (.corrupt (o + 2) .emptyPath) ∧
    (∀ y : Byte, y ≠ 0x30#8 → y ≠ 0x31#8 → stop (x :: 0x3A#8 :: y :: more) = .error (.corrupt (o + 2) .emptyPath)) ∧
    (∀ p : Path, p.length = 256 → stop (entryText (x, p) ++ more) = .error (.corrupt (o + 257) .pathTooLong))) ∧
  (∀ (term : Sym) (entries : List (Sym × Path)), Importable entries → entries ≠ [] → term ∉ entries.map Prod.fst →
    importText term (joinEntries (entries.map entryText)) =
      .error (.corrupt (joinEntries (entries.map entryText)).length .noTerminator) ∧
    importText term (tablePrefix entries) = .error (.corrupt (tablePrefix entries).length .noTerminator))

/-- R154, R159: staging's errors: RESOURCE(1, 8n) with nothing read and the buffer unchanged, TRUNCATION(n, j) with the
j bytes kept in the buffer; the tree is cleared and SYN_TERM is 0 in both. -/
def Obligations.ImportStagingErrors : Prop :=
  (∀ (s : State) (n : BitVec 32), s.eng.err = false → 524288 < 8 * n.toNat →
    exec (.tableImport n) s = .next { s with
      eng := { s.eng with
        inCount := 0#64, outCount := 0#64, symCount := 0#64, synTerm := false
        treeValid := false, nodes := [], root := 0, tblBytes := 0#64, ct := Vector.replicate 256 none
        err := true, errCode := .resource, errOp := 0x22#8
        errInfo0 := 1#64, errInfo1 := BitVec.ofNat 64 (8 * n.toNat) } }) ∧
  (∀ (s : State) (n : BitVec 32), s.eng.err = false → 8 * n.toNat ≤ 524288 → s.inp.units.length < n.toNat →
    s.inp.tail = .eof →
    exec (.tableImport n) s = .next { s with
      inp := { s.inp with units := [] }
      eng := { s.eng with
        inCount := BitVec.ofNat 64 s.inp.units.length, outCount := 0#64, symCount := 0#64, synTerm := false
        treeValid := false, nodes := [], root := 0, tblBytes := 0#64, ct := Vector.replicate 256 none
        bb := bytesToBits s.inp.units
        err := true, errCode := .truncation, errOp := 0x22#8
        errInfo0 := n.setWidth 64, errInfo1 := BitVec.ofNat 64 s.inp.units.length } })

/-- R159, R154, R152, R221: an import of n bytes that are there and are no table leaves the tree cleared, the n bytes
consumed and staged in the buffer, and RESULT unchanged. What ended the parse stands in the error registers:
CORRUPT_TABLE with the byte offset and R152's number 1 to 8, or RESOURCE(3, 512) for a full arena.
`ImportRejectsConflict` says when each arises. -/
def Obligations.FailedImportLeavesNoTree : Prop :=
  (∀ (s : State) (n : BitVec 32) (stop : ImportStop), s.eng.err = false → 8 * n.toNat ≤ 524288 →
    n.toNat ≤ s.inp.units.length → importText s.eng.term (s.inp.units.take n.toNat) = .error stop →
    ∃ code i0 i1,
      (∀ o r, stop = .corrupt o r →
        code = .corruptTable ∧ i0 = BitVec.ofNat 64 o ∧ i1 = BitVec.ofNat 64 (corruptCode r)) ∧
      (stop = .arenaFull → code = .resource ∧ i0 = 3#64 ∧ i1 = 512#64) ∧
      exec (.tableImport n) s = .next { s with
        inp := { s.inp with units := s.inp.units.drop n.toNat }
        eng := { s.eng with
          inCount := BitVec.ofNat 64 n.toNat, outCount := 0#64, symCount := 0#64, synTerm := false
          treeValid := false, nodes := [], root := 0, tblBytes := 0#64, ct := Vector.replicate 256 none
          bb := bytesToBits (s.inp.units.take n.toNat)
          err := true, errCode := code, errOp := 0x22#8, errInfo0 := i0, errInfo1 := i1 } }) ∧
  (corruptCode .badText = 1 ∧ corruptCode .throughLeaf = 2 ∧ corruptCode .prefixOfEarlier = 3 ∧
    corruptCode .duplicatePath = 4 ∧ corruptCode .duplicateSymbol = 5 ∧ corruptCode .noTerminator = 6 ∧
    corruptCode .emptyPath = 7 ∧ corruptCode .pathTooLong = 8)

/-- A table whose one entry is TERM's, a trailing separator or not, is taken, and NLEAVES is then 1: R150's pseudocode has
no check that refuses it, R82's grammar admits it, and R157 and D31 take incomplete code sets, against R26 (f) (the
model's reading, notes/assumptions/12.md). -/
def Obligations.OneEntryImportLeavesOneLeaf : Prop :=
  ∀ (s : State) (n : BitVec 32) (p : Path) (trailing : Bool) (rest : List Byte),
    let text := entryText (s.eng.term, p) ++ (if trailing then [0x3B#8] else [])
    s.eng.err = false → 1 ≤ p.length → p.length ≤ 255 → n.toNat = text.length → s.inp.units = text ++ rest →
    ∃ t, exec (.tableImport n) s = .next t ∧ t.eng.err = false ∧ t.eng.treeValid = true ∧ t.eng.nleaves = 1#64 ∧
      (∀ (x : Sym) (q : Path), symGet t.eng.ct x = some q ↔ x = s.eng.term ∧ q = p) ∧ t.inp.units = rest

/-- R160: with a tree that meets R26, the bytes TABLE_EXPORT writes, given to TABLE_IMPORT on an engine with the same
TERM, yield the code table entry for entry. That they fit the bit buffer, which R160 remarks, is a premise here.
That a table of one entry, TERM's, comes back too is the model's reading, against R26 (f) (notes/assumptions/12.md). -/
def Obligations.ExportThenImportGivesSameTable : Prop :=
  ∀ (s s' : State) (n : BitVec 32) (rest : List Byte),
    s.eng.treeValid = true → s.eng.UsableTree →
    s'.eng.err = false → s'.eng.term = s.eng.term →
    s'.inp.units = exportText s.eng.ct ++ rest → n.toNat = (exportText s.eng.ct).length →
    8 * (exportText s.eng.ct).length ≤ 524288 →
    ∃ t, exec (.tableImport n) s' = .next t ∧ t.eng.err = false ∧ t.eng.treeValid = true ∧
      t.eng.ct = s.eng.ct ∧ t.eng.tblBytes = s.eng.tblBytes ∧ t.inp.units = rest

/-! ## The codec -/

/-- R170, R171, R173, R79: with a tree, ENCODE n of n symbols that all have codes writes the packed bits of their paths,
TERM's path appended unless the text already ends in TERM; the bits stay in the buffer. -/
def Obligations.EncodeCompletes : Prop :=
  ∀ (s : State) (n : BitVec 32),
    let text := s.symIn.units.take n.toNat
    let text' := if text.getLast? = some s.eng.term then text else text ++ [s.eng.term]
    let bits := text'.flatMap s.eng.ctPath
    s.eng.err = false → s.eng.treeValid = true → n.toNat ≤ s.symIn.units.length →
    (∀ x ∈ text, s.eng.ctV x = true) → bits.length ≤ 524288 →
    exec (.encode n) s = .next { s with
      symIn := { s.symIn with units := s.symIn.units.drop n.toNat }
      out := s.out ++ packBytes bits
      eng := { s.eng with
        inCount := 0#64, outCount := BitVec.ofNat 64 ((bits.length + 7) / 8), symCount := BitVec.ofNat 64 n.toNat
        bb := bits } }

/-- R170, R228: ENCODE's errors in text order: ALPHABET(x, j) at the first symbol with no code; RESOURCE at the first
path, or the terminator's, that does not fit; TRUNCATION(n, j) where SYMIN ends. Nothing goes to OUT, the symbols read
stay consumed and the buffer holds the bits appended. -/
def Obligations.EncodeErrors : Prop :=
  ∀ (s : State) (n : BitVec 32), s.eng.err = false → s.eng.treeValid = true →
    (∀ (done : List Sym) (x : Sym) (more : List Sym),
      s.symIn.units = done ++ x :: more → done.length < n.toNat →
      (∀ y ∈ done, s.eng.ctV y = true) → (done.flatMap s.eng.ctPath).length ≤ 524288 →
      (s.eng.ctV x = false →
        exec (.encode n) s = .next { s with
          symIn := { s.symIn with units := more }
          eng := { s.eng with
            inCount := 0#64, outCount := 0#64, symCount := BitVec.ofNat 64 (done.length + 1)
            bb := done.flatMap s.eng.ctPath
            err := true, errCode := .alphabet, errOp := 0x30#8
            errInfo0 := x.setWidth 64, errInfo1 := BitVec.ofNat 64 done.length } }) ∧
      (s.eng.ctV x = true → 524288 < ((done ++ [x]).flatMap s.eng.ctPath).length →
        exec (.encode n) s = .next { s with
          symIn := { s.symIn with units := more }
          eng := { s.eng with
            inCount := 0#64, outCount := 0#64, symCount := BitVec.ofNat 64 (done.length + 1)
            bb := ((done ++ [x]).flatMap s.eng.ctPath).take 524288
            err := true, errCode := .resource, errOp := 0x30#8
            errInfo0 := 1#64, errInfo1 := 524289#64 } })) ∧
    (s.symIn.units.length < n.toNat → s.symIn.tail = .eof → (∀ y ∈ s.symIn.units, s.eng.ctV y = true) →
      (s.symIn.units.flatMap s.eng.ctPath).length ≤ 524288 →
      exec (.encode n) s = .next { s with
        symIn := { s.symIn with units := [] }
        eng := { s.eng with
          inCount := 0#64, outCount := 0#64, symCount := BitVec.ofNat 64 s.symIn.units.length
          bb := s.symIn.units.flatMap s.eng.ctPath
          err := true, errCode := .truncation, errOp := 0x30#8
          errInfo0 := n.setWidth 64, errInfo1 := BitVec.ofNat 64 s.symIn.units.length } }) ∧
    (n.toNat ≤ s.symIn.units.length → (∀ y ∈ s.symIn.units.take n.toNat, s.eng.ctV y = true) →
      (s.symIn.units.take n.toNat).getLast? ≠ some s.eng.term →
      ((s.symIn.units.take n.toNat).flatMap s.eng.ctPath).length ≤ 524288 →
      524288 < ((s.symIn.units.take n.toNat ++ [s.eng.term]).flatMap s.eng.ctPath).length →
      exec (.encode n) s = .next { s with
        symIn := { s.symIn with units := s.symIn.units.drop n.toNat }
        eng := { s.eng with
          inCount := 0#64, outCount := 0#64, symCount := BitVec.ofNat 64 n.toNat
          bb := ((s.symIn.units.take n.toNat ++ [s.eng.term]).flatMap s.eng.ctPath).take 524288
          err := true, errCode := .resource, errOp := 0x30#8, errInfo0 := 1#64, errInfo1 := 524289#64 } })

/-- R181, R174, R175, R186: with a tree that meets R26, DECODE_BB of a buffer that holds the paths of data symbols, then
TERM's path, then any bits at all, writes those symbols to SYMOUT. That OBUF keeps them is the model's choice
(notes/assumptions/2.md). -/
def Obligations.DecodeBbCompletes : Prop :=
  ∀ (s : State) (text : List Sym) (after : List Bool),
    s.eng.err = false → s.eng.treeValid = true → s.eng.UsableTree →
    (∀ x ∈ text, s.eng.ctV x = true ∧ x ≠ s.eng.term) → text.length ≤ 4096 →
    s.eng.bb = text.flatMap s.eng.ctPath ++ s.eng.ctPath s.eng.term ++ after →
    exec .decodeBb s = .next { s with
      symOut := s.symOut ++ text
      eng := { s.eng with
        inCount := 0#64, outCount := 0#64, symCount := BitVec.ofNat 64 text.length, obuf := text } }

/-- R183 to R185: with a tree that meets R26, DECODE_STREAM cap of an encoded term of at most cap symbols, whatever
follows it in IN and whatever its padding bits are, writes its symbols and reads exactly its bytes. That OBUF keeps the
symbols is the model's choice (notes/assumptions/2.md). -/
def Obligations.DecodeStreamCompletes : Prop :=
  ∀ (s : State) (cap : BitVec 32) (text : List Sym) (term rest : List Byte) (padding : List Bool),
    s.eng.err = false → s.eng.treeValid = true → s.eng.UsableTree →
    (∀ x ∈ text, s.eng.ctV x = true ∧ x ≠ s.eng.term) → text.length ≤ 4096 → text.length ≤ cap.toNat →
    padding.length < 8 →
    bytesToBits term = text.flatMap s.eng.ctPath ++ s.eng.ctPath s.eng.term ++ padding →
    s.inp.units = term ++ rest →
    exec (.decodeStream cap) s = .next { s with
      inp := { s.inp with units := rest }
      symOut := s.symOut ++ text
      eng := { s.eng with
        inCount := BitVec.ofNat 64 term.length, outCount := 0#64
        symCount := BitVec.ofNat 64 text.length, obuf := text } }

/-- R186: what ENCODE wrote, DECODE_STREAM reads back, consuming exactly those bytes, and so does DECODE_BB right after
the ENCODE; `text0` is the text without a final TERM. R186 as the spec writes it has no bound from OBUF_CAP, which R174
enforces: the statement carries it. -/
def Obligations.EncodeThenDecodeGivesText : Prop :=
  ∀ (s t : State) (n cap : BitVec 32) (text0 : List Sym) (rest : List Byte),
    s.eng.err = false → s.eng.treeValid = true → s.eng.UsableTree → n.toNat ≤ s.symIn.units.length →
    (s.symIn.units.take n.toNat = text0 ∨ s.symIn.units.take n.toNat = text0 ++ [s.eng.term]) →
    s.eng.term ∉ text0 → text0.length ≤ cap.toNat → text0.length ≤ 4096 →
    exec (.encode n) s = .next t → t.eng.err = false →
    (∃ u, exec (.decodeStream cap) { t with inp := { t.inp with units := t.out.drop s.out.length ++ rest } } = .next u ∧
      u.eng.err = false ∧ u.symOut = s.symOut ++ text0 ∧ u.inp.units = rest) ∧
    (∃ u, exec .decodeBb t = .next u ∧ u.eng.err = false ∧ u.symOut = s.symOut ++ text0)

/-- R174, R183, R175: both decoders run one walk: the byte-wise walk of DECODE_STREAM ends where the walk over the bytes'
bits ends; and once a walk has returned, whatever bits follow are ignored. -/
def Obligations.OneWalkForBothDecoders : Prop :=
  (∀ (env : WalkEnv) (w : Walk) (bytes : List Byte),
    (walkBytes env w bytes).1 = walkBits env w (bytesToBits bytes)) ∧
  (∀ (env : WalkEnv) (w w' : Walk) (bits after : List Bool),
    walkBits env w bits = .returned w' → walkBits env w (bits ++ after) = .returned w')

/-- R184, R185: a DECODE_STREAM that consumes k bits, however it ends, reads exactly `ceil(k/8)` bytes: the walk over the
bytes, and the command, which drops them from IN and leaves IN_COUNT at their number, k being the bits that R174's walk
over IN's bits consumed. -/
def Obligations.NoOverRead : Prop :=
  (∀ (env : WalkEnv) (root : Handle) (bytes : List Byte) (w : Walk) (m : Nat),
    (walkBytes env (Walk.start root) bytes = (.running w, m) ∨
      walkBytes env (Walk.start root) bytes = (.returned w, m) ∨
      ∃ code i0 i1, walkBytes env (Walk.start root) bytes = (.failed w code i0 i1, m)) →
    m = (w.k + 7) / 8 ∧ m ≤ bytes.length) ∧
  (∀ (s t : State) (cap : BitVec 32), s.eng.err = false → s.eng.treeValid = true →
    exec (.decodeStream cap) s = .next t →
    let r := walkBits (walkEnv s.eng (some cap.toNat)) (Walk.start s.eng.root) (bytesToBits s.inp.units)
    ∃ w : Walk,
      ((r = .running w ∧ t.eng.errCode = .truncation) ∨ (r = .returned w ∧ t.eng.err = false) ∨
        ∃ code i0 i1, r = .failed w code i0 i1 ∧
          t.eng.errCode = code ∧ t.eng.errInfo0 = i0 ∧ t.eng.errInfo1 = i1) ∧
      (w.k + 7) / 8 ≤ s.inp.units.length ∧
      t.inp = { s.inp with units := s.inp.units.drop ((w.k + 7) / 8) } ∧
      t.eng.inCount = BitVec.ofNat 64 ((w.k + 7) / 8))

/-- R180, R14: a decoder writes SYMOUT on success only, and then exactly the symbols it decoded, which OBUF keeps (the
model's choice, notes/assumptions/2.md). Where a decoder raises, with a tree that meets R26, after any data symbols
decoded (R174, R176 to R178, R181, R185): TRUNCATION where the bits end inside a path, MALFORMED(k, h) at a missing child,
CAPACITY(cap, x) at the symbol after cap ones, else RESOURCE(2, 4097) at the 4097th; DECODE_STREAM keeps the bytes it
began consumed, whatever follows them and whatever their unread bits are. -/
def Obligations.DecodeReleasesOnSuccessOnly : Prop :=
  (∀ (s t : State) (i : Instr), (i = .decodeBb ∨ ∃ cap, i = .decodeStream cap) →
    s.eng.err = false → exec i s = .next t →
    (t.eng.err = true → t.symOut = s.symOut) ∧
    (t.eng.err = false → t.symOut = s.symOut ++ t.eng.obuf ∧ t.eng.symCount = BitVec.ofNat 64 t.eng.obuf.length)) ∧
  (∀ (s : State) (text : List Sym), s.eng.err = false → s.eng.treeValid = true → s.eng.UsableTree →
    s.eng.DataText text → text.length ≤ 4096 →
    let done := text.flatMap s.eng.ctPath
    (∀ p h, s.eng.EndsInside p h → s.eng.bb = done ++ p →
      exec .decodeBb s = .next (s.decodeRaised 0x31#8 .truncation
        (BitVec.ofNat 64 s.eng.bb.length) (BitVec.ofNat 64 s.eng.bb.length) text 0)) ∧
    (∀ p h b rest, s.eng.EndsInside p h → nextNode s.eng.nodes h b = none → s.eng.bb = done ++ p ++ b :: rest →
      exec .decodeBb s = .next (s.decodeRaised 0x31#8 .malformed
        (BitVec.ofNat 64 (done ++ p).length) (BitVec.ofNat 64 h) text 0)) ∧
    (∀ x rest, s.eng.ctV x = true → x ≠ s.eng.term → s.eng.bb = done ++ s.eng.ctPath x ++ rest → text.length = 4096 →
      exec .decodeBb s = .next (s.decodeRaised 0x31#8 .resource 2#64 4097#64 text 0))) ∧
  (∀ (s : State) (cap : BitVec 32) (text : List Sym), s.eng.err = false → s.eng.treeValid = true → s.eng.UsableTree →
    s.eng.DataText text → text.length ≤ 4096 → text.length ≤ cap.toNat →
    let done := text.flatMap s.eng.ctPath
    (∀ p h, s.eng.EndsInside p h → bytesToBits s.inp.units = done ++ p → s.inp.tail = .eof →
      exec (.decodeStream cap) s = .next (s.decodeRaised 0x32#8 .truncation
        (BitVec.ofNat 64 (8 * s.inp.units.length)) (BitVec.ofNat 64 s.inp.units.length) text s.inp.units.length)) ∧
    (∀ p h b begun rest unread, s.eng.EndsInside p h → nextNode s.eng.nodes h b = none →
      s.inp.units = begun ++ rest → bytesToBits begun = done ++ p ++ b :: unread → unread.length < 8 →
      exec (.decodeStream cap) s = .next (s.decodeRaised 0x32#8 .malformed
        (BitVec.ofNat 64 (done ++ p).length) (BitVec.ofNat 64 h) text begun.length)) ∧
    (∀ x begun rest unread, s.eng.ctV x = true → x ≠ s.eng.term →
      s.inp.units = begun ++ rest → bytesToBits begun = done ++ s.eng.ctPath x ++ unread → unread.length < 8 →
      (text.length = cap.toNat →
        exec (.decodeStream cap) s = .next (s.decodeRaised 0x32#8 .capacity
          (cap.setWidth 64) (x.setWidth 64) text begun.length)) ∧
      (text.length < cap.toNat → text.length = 4096 →
        exec (.decodeStream cap) s = .next (s.decodeRaised 0x32#8 .resource 2#64 4097#64 text begun.length))))

/-- R176, R132 (a): in a full tree that meets R26 no decode raises MALFORMED. -/
def Obligations.FullTreeNeverMalformed : Prop :=
  ∀ (s t : State) (i : Instr), (i = .decodeBb ∨ ∃ cap, i = .decodeStream cap) →
    s.eng.err = false → s.eng.treeValid = true → s.eng.UsableTree → s.eng.FullTree →
    exec i s = .next t → t.eng.err = true → t.eng.errCode ≠ .malformed

/-! ## Whole-machine rules and invariants -/

/-- R21, R22, R32: TERM is written by SET_TERM and RESET only, the frequency table by FREQ_SET, FREQ_CLEAR and RESET
only, and RESULT by a BB_GET, CT_READ or BUILD that succeeds, and by RESET. -/
def Obligations.WritersOfTermFreqAndResult : Prop :=
  ∀ (s t : State) (i : Instr), exec i s = .next t → i ≠ .reset →
    ((∀ x, i ≠ .setTerm x) → t.eng.term = s.eng.term) ∧
    ((∀ x v, i ≠ .freqSet x v) → i ≠ .freqClear → t.eng.freq = s.eng.freq) ∧
    (((∀ n, i ≠ .bbGet n) ∧ (∀ x, i ≠ .ctRead x) ∧ i ≠ .build) ∨ t.eng.err = true → t.eng.result = s.eng.result)

/-- R31, R24, R27: the error registers change only by an error entry from ERR = 0 that records the command's own OP; the
tree's state only by BUILD, TABLE_IMPORT and SET_TERM; the bit buffer only by R27's writers. RESET and ERR_ACK apart. -/
def Obligations.WritersOfErrorsTreeAndBuffer : Prop :=
  ∀ (s t : State) (i : Instr), exec i s = .next t → i ≠ .reset → i ≠ .errAck →
    ((t.eng.err = s.eng.err ∧ t.eng.errCode = s.eng.errCode ∧ t.eng.errOp = s.eng.errOp ∧
        t.eng.errInfo0 = s.eng.errInfo0 ∧ t.eng.errInfo1 = s.eng.errInfo1) ∨
      (s.eng.err = false ∧ t.eng.err = true ∧ t.eng.errOp = opcode i ∧ t.eng.errCode ≠ .noError)) ∧
    (i ≠ .build → (∀ n, i ≠ .tableImport n) → (∀ x, i ≠ .setTerm x) →
      t.eng.nodes = s.eng.nodes ∧ t.eng.root = s.eng.root ∧ t.eng.ct = s.eng.ct ∧
      t.eng.treeValid = s.eng.treeValid ∧ t.eng.synTerm = s.eng.synTerm ∧ t.eng.tblBytes = s.eng.tblBytes) ∧
    (i ≠ .bbClear → (∀ b, i ≠ .bbAppend b) → (∀ n, i ≠ .bbLoad n) → (∀ n, i ≠ .tableImport n) →
      (∀ x, i ≠ .ctRead x) → (∀ n, i ≠ .encode n) → t.eng.bb = s.eng.bb)

/-- R54, R56 to R59: a command consumes only a prefix of IN and of SYMIN and only appends to OUT and SYMOUT; IN is read
by BB_LOAD, TABLE_IMPORT and DECODE_STREAM alone, SYMIN by ENCODE alone, OUT is written by BB_EMIT, TABLE_EXPORT and
ENCODE alone, SYMOUT by the decoders alone. -/
def Obligations.StreamEffects : Prop :=
  ∀ (s t : State) (i : Instr), exec i s = .next t →
    (∃ k, t.inp = { s.inp with units := s.inp.units.drop k }) ∧
    (∃ k, t.symIn = { s.symIn with units := s.symIn.units.drop k }) ∧
    s.out <+: t.out ∧ s.symOut <+: t.symOut ∧ t.host = s.host ∧ t.readData = s.readData ∧
    ((∀ n, i ≠ .bbLoad n) → (∀ n, i ≠ .tableImport n) → (∀ n, i ≠ .decodeStream n) → t.inp = s.inp) ∧
    ((∀ n, i ≠ .encode n) → t.symIn = s.symIn) ∧
    (i ≠ .bbEmit → i ≠ .tableExport → (∀ n, i ≠ .encode n) → t.out = s.out) ∧
    (i ≠ .decodeBb → (∀ n, i ≠ .decodeStream n) → t.symOut = s.symOut)

/-- R229, R259, R60: where the host meets its stream duties every step answers a next state: no error of the block ends
the machine. -/
def Obligations.NoStopUnderHostDuties : Prop :=
  ∀ s : State, s.HostDuties → ∃ t, step s = .next t

/-- R24, R27, R28, R31: every step keeps the registers' invariant. The tree invariant is a premise because CT_READ puts a
path into the buffer, which R25's bound on paths makes fit (R144); `StepKeepsTreeInvariant` states that it is kept. -/
def Obligations.StepKeepsSoundRegisters : Prop :=
  ∀ s t : State, s.eng.Sound → s.eng.TreeInvariant → step s = .next t → t.eng.Sound

/-- R26, R132 (e), R158: every step keeps the tree invariant, R26 (a) to (e). R26 (f), two leaves, is kept by every step
but a TABLE_IMPORT that leaves one leaf (the model's reading: notes/assumptions/12.md). -/
def Obligations.StepKeepsTreeInvariant : Prop :=
  (∀ s t : State, s.eng.TreeInvariant → step s = .next t → t.eng.TreeInvariant) ∧
  (∀ s t : State, (s.eng.treeValid = true → s.eng.TwoLeaves) → step s = .next t → t.eng.treeValid = true →
    t.eng.TwoLeaves ∨ ∃ d n rest,
      s.host = .command d :: rest ∧ decode d = .ok (.tableImport n) ∧ t.eng.nleaves = 1#64)

/-- R250: both invariants hold at reset. -/
def Obligations.InvariantsHoldAtReset : Prop :=
  State.reset.eng.Sound ∧ State.reset.eng.TreeInvariant
end

