-- ==== Sys2Proof/Laws/State.lean ====
section
/-! SUPPORT. Each field of the engine and of the machine after each named update: one lemma per field per update. -/

namespace Sys2Proof.Machine

/-! ### Engine -/

@[simp] theorem Engine.enterError_term (e : Engine) (op : BitVec 8) (code : ErrCode) (i0 i1 : Reg) : (e.enterError op code i0 i1).term = e.term := rfl
@[simp] theorem Engine.enterError_freq (e : Engine) (op : BitVec 8) (code : ErrCode) (i0 i1 : Reg) : (e.enterError op code i0 i1).freq = e.freq := rfl
@[simp] theorem Engine.enterError_nodes (e : Engine) (op : BitVec 8) (code : ErrCode) (i0 i1 : Reg) : (e.enterError op code i0 i1).nodes = e.nodes := rfl
@[simp] theorem Engine.enterError_nodeF (e : Engine) (op : BitVec 8) (code : ErrCode) (i0 i1 : Reg) : (e.enterError op code i0 i1).nodeF = e.nodeF := rfl
@[simp] theorem Engine.enterError_root (e : Engine) (op : BitVec 8) (code : ErrCode) (i0 i1 : Reg) : (e.enterError op code i0 i1).root = e.root := rfl
@[simp] theorem Engine.enterError_ct (e : Engine) (op : BitVec 8) (code : ErrCode) (i0 i1 : Reg) : (e.enterError op code i0 i1).ct = e.ct := rfl
@[simp] theorem Engine.enterError_bb (e : Engine) (op : BitVec 8) (code : ErrCode) (i0 i1 : Reg) : (e.enterError op code i0 i1).bb = e.bb := rfl
@[simp] theorem Engine.enterError_obuf (e : Engine) (op : BitVec 8) (code : ErrCode) (i0 i1 : Reg) : (e.enterError op code i0 i1).obuf = e.obuf := rfl
@[simp] theorem Engine.enterError_err (e : Engine) (op : BitVec 8) (code : ErrCode) (i0 i1 : Reg) : (e.enterError op code i0 i1).err = true := rfl
@[simp] theorem Engine.enterError_drop (e : Engine) (op : BitVec 8) (code : ErrCode) (i0 i1 : Reg) : (e.enterError op code i0 i1).drop = e.drop := rfl
@[simp] theorem Engine.enterError_treeValid (e : Engine) (op : BitVec 8) (code : ErrCode) (i0 i1 : Reg) : (e.enterError op code i0 i1).treeValid = e.treeValid := rfl
@[simp] theorem Engine.enterError_synTerm (e : Engine) (op : BitVec 8) (code : ErrCode) (i0 i1 : Reg) : (e.enterError op code i0 i1).synTerm = e.synTerm := rfl
@[simp] theorem Engine.enterError_errCode (e : Engine) (op : BitVec 8) (code : ErrCode) (i0 i1 : Reg) : (e.enterError op code i0 i1).errCode = code := rfl
@[simp] theorem Engine.enterError_errOp (e : Engine) (op : BitVec 8) (code : ErrCode) (i0 i1 : Reg) : (e.enterError op code i0 i1).errOp = op := rfl
@[simp] theorem Engine.enterError_errInfo0 (e : Engine) (op : BitVec 8) (code : ErrCode) (i0 i1 : Reg) : (e.enterError op code i0 i1).errInfo0 = i0 := rfl
@[simp] theorem Engine.enterError_errInfo1 (e : Engine) (op : BitVec 8) (code : ErrCode) (i0 i1 : Reg) : (e.enterError op code i0 i1).errInfo1 = i1 := rfl
@[simp] theorem Engine.enterError_result (e : Engine) (op : BitVec 8) (code : ErrCode) (i0 i1 : Reg) : (e.enterError op code i0 i1).result = e.result := rfl
@[simp] theorem Engine.enterError_tblBytes (e : Engine) (op : BitVec 8) (code : ErrCode) (i0 i1 : Reg) : (e.enterError op code i0 i1).tblBytes = e.tblBytes := rfl
@[simp] theorem Engine.enterError_inCount (e : Engine) (op : BitVec 8) (code : ErrCode) (i0 i1 : Reg) : (e.enterError op code i0 i1).inCount = e.inCount := rfl
@[simp] theorem Engine.enterError_outCount (e : Engine) (op : BitVec 8) (code : ErrCode) (i0 i1 : Reg) : (e.enterError op code i0 i1).outCount = e.outCount := rfl
@[simp] theorem Engine.enterError_symCount (e : Engine) (op : BitVec 8) (code : ErrCode) (i0 i1 : Reg) : (e.enterError op code i0 i1).symCount = e.symCount := rfl

@[simp] theorem Engine.ackError_term (e : Engine) : (e.ackError).term = e.term := rfl
@[simp] theorem Engine.ackError_freq (e : Engine) : (e.ackError).freq = e.freq := rfl
@[simp] theorem Engine.ackError_nodes (e : Engine) : (e.ackError).nodes = e.nodes := rfl
@[simp] theorem Engine.ackError_nodeF (e : Engine) : (e.ackError).nodeF = e.nodeF := rfl
@[simp] theorem Engine.ackError_root (e : Engine) : (e.ackError).root = e.root := rfl
@[simp] theorem Engine.ackError_ct (e : Engine) : (e.ackError).ct = e.ct := rfl
@[simp] theorem Engine.ackError_bb (e : Engine) : (e.ackError).bb = e.bb := rfl
@[simp] theorem Engine.ackError_obuf (e : Engine) : (e.ackError).obuf = e.obuf := rfl
@[simp] theorem Engine.ackError_err (e : Engine) : (e.ackError).err = false := rfl
@[simp] theorem Engine.ackError_drop (e : Engine) : (e.ackError).drop = false := rfl
@[simp] theorem Engine.ackError_treeValid (e : Engine) : (e.ackError).treeValid = e.treeValid := rfl
@[simp] theorem Engine.ackError_synTerm (e : Engine) : (e.ackError).synTerm = e.synTerm := rfl
@[simp] theorem Engine.ackError_errCode (e : Engine) : (e.ackError).errCode = .noError := rfl
@[simp] theorem Engine.ackError_errOp (e : Engine) : (e.ackError).errOp = 0#8 := rfl
@[simp] theorem Engine.ackError_errInfo0 (e : Engine) : (e.ackError).errInfo0 = 0#64 := rfl
@[simp] theorem Engine.ackError_errInfo1 (e : Engine) : (e.ackError).errInfo1 = 0#64 := rfl
@[simp] theorem Engine.ackError_result (e : Engine) : (e.ackError).result = e.result := rfl
@[simp] theorem Engine.ackError_tblBytes (e : Engine) : (e.ackError).tblBytes = e.tblBytes := rfl
@[simp] theorem Engine.ackError_inCount (e : Engine) : (e.ackError).inCount = e.inCount := rfl
@[simp] theorem Engine.ackError_outCount (e : Engine) : (e.ackError).outCount = e.outCount := rfl
@[simp] theorem Engine.ackError_symCount (e : Engine) : (e.ackError).symCount = e.symCount := rfl

@[simp] theorem Engine.markDropped_term (e : Engine) : (e.markDropped).term = e.term := rfl
@[simp] theorem Engine.markDropped_freq (e : Engine) : (e.markDropped).freq = e.freq := rfl
@[simp] theorem Engine.markDropped_nodes (e : Engine) : (e.markDropped).nodes = e.nodes := rfl
@[simp] theorem Engine.markDropped_nodeF (e : Engine) : (e.markDropped).nodeF = e.nodeF := rfl
@[simp] theorem Engine.markDropped_root (e : Engine) : (e.markDropped).root = e.root := rfl
@[simp] theorem Engine.markDropped_ct (e : Engine) : (e.markDropped).ct = e.ct := rfl
@[simp] theorem Engine.markDropped_bb (e : Engine) : (e.markDropped).bb = e.bb := rfl
@[simp] theorem Engine.markDropped_obuf (e : Engine) : (e.markDropped).obuf = e.obuf := rfl
@[simp] theorem Engine.markDropped_err (e : Engine) : (e.markDropped).err = e.err := rfl
@[simp] theorem Engine.markDropped_drop (e : Engine) : (e.markDropped).drop = true := rfl
@[simp] theorem Engine.markDropped_treeValid (e : Engine) : (e.markDropped).treeValid = e.treeValid := rfl
@[simp] theorem Engine.markDropped_synTerm (e : Engine) : (e.markDropped).synTerm = e.synTerm := rfl
@[simp] theorem Engine.markDropped_errCode (e : Engine) : (e.markDropped).errCode = e.errCode := rfl
@[simp] theorem Engine.markDropped_errOp (e : Engine) : (e.markDropped).errOp = e.errOp := rfl
@[simp] theorem Engine.markDropped_errInfo0 (e : Engine) : (e.markDropped).errInfo0 = e.errInfo0 := rfl
@[simp] theorem Engine.markDropped_errInfo1 (e : Engine) : (e.markDropped).errInfo1 = e.errInfo1 := rfl
@[simp] theorem Engine.markDropped_result (e : Engine) : (e.markDropped).result = e.result := rfl
@[simp] theorem Engine.markDropped_tblBytes (e : Engine) : (e.markDropped).tblBytes = e.tblBytes := rfl
@[simp] theorem Engine.markDropped_inCount (e : Engine) : (e.markDropped).inCount = e.inCount := rfl
@[simp] theorem Engine.markDropped_outCount (e : Engine) : (e.markDropped).outCount = e.outCount := rfl
@[simp] theorem Engine.markDropped_symCount (e : Engine) : (e.markDropped).symCount = e.symCount := rfl

@[simp] theorem Engine.zeroCounters_term (e : Engine) : (e.zeroCounters).term = e.term := rfl
@[simp] theorem Engine.zeroCounters_freq (e : Engine) : (e.zeroCounters).freq = e.freq := rfl
@[simp] theorem Engine.zeroCounters_nodes (e : Engine) : (e.zeroCounters).nodes = e.nodes := rfl
@[simp] theorem Engine.zeroCounters_nodeF (e : Engine) : (e.zeroCounters).nodeF = e.nodeF := rfl
@[simp] theorem Engine.zeroCounters_root (e : Engine) : (e.zeroCounters).root = e.root := rfl
@[simp] theorem Engine.zeroCounters_ct (e : Engine) : (e.zeroCounters).ct = e.ct := rfl
@[simp] theorem Engine.zeroCounters_bb (e : Engine) : (e.zeroCounters).bb = e.bb := rfl
@[simp] theorem Engine.zeroCounters_obuf (e : Engine) : (e.zeroCounters).obuf = e.obuf := rfl
@[simp] theorem Engine.zeroCounters_err (e : Engine) : (e.zeroCounters).err = e.err := rfl
@[simp] theorem Engine.zeroCounters_drop (e : Engine) : (e.zeroCounters).drop = e.drop := rfl
@[simp] theorem Engine.zeroCounters_treeValid (e : Engine) : (e.zeroCounters).treeValid = e.treeValid := rfl
@[simp] theorem Engine.zeroCounters_synTerm (e : Engine) : (e.zeroCounters).synTerm = e.synTerm := rfl
@[simp] theorem Engine.zeroCounters_errCode (e : Engine) : (e.zeroCounters).errCode = e.errCode := rfl
@[simp] theorem Engine.zeroCounters_errOp (e : Engine) : (e.zeroCounters).errOp = e.errOp := rfl
@[simp] theorem Engine.zeroCounters_errInfo0 (e : Engine) : (e.zeroCounters).errInfo0 = e.errInfo0 := rfl
@[simp] theorem Engine.zeroCounters_errInfo1 (e : Engine) : (e.zeroCounters).errInfo1 = e.errInfo1 := rfl
@[simp] theorem Engine.zeroCounters_result (e : Engine) : (e.zeroCounters).result = e.result := rfl
@[simp] theorem Engine.zeroCounters_tblBytes (e : Engine) : (e.zeroCounters).tblBytes = e.tblBytes := rfl
@[simp] theorem Engine.zeroCounters_inCount (e : Engine) : (e.zeroCounters).inCount = 0#64 := rfl
@[simp] theorem Engine.zeroCounters_outCount (e : Engine) : (e.zeroCounters).outCount = 0#64 := rfl
@[simp] theorem Engine.zeroCounters_symCount (e : Engine) : (e.zeroCounters).symCount = 0#64 := rfl

@[simp] theorem Engine.clearTree_term (e : Engine) : (e.clearTree).term = e.term := rfl
@[simp] theorem Engine.clearTree_freq (e : Engine) : (e.clearTree).freq = e.freq := rfl
@[simp] theorem Engine.clearTree_nodes (e : Engine) : (e.clearTree).nodes = [] := rfl
@[simp] theorem Engine.clearTree_nodeF (e : Engine) : (e.clearTree).nodeF = e.nodeF := rfl
@[simp] theorem Engine.clearTree_root (e : Engine) : (e.clearTree).root = 0 := rfl
@[simp] theorem Engine.clearTree_ct (e : Engine) : (e.clearTree).ct = emptyCt := rfl
@[simp] theorem Engine.clearTree_bb (e : Engine) : (e.clearTree).bb = e.bb := rfl
@[simp] theorem Engine.clearTree_obuf (e : Engine) : (e.clearTree).obuf = e.obuf := rfl
@[simp] theorem Engine.clearTree_err (e : Engine) : (e.clearTree).err = e.err := rfl
@[simp] theorem Engine.clearTree_drop (e : Engine) : (e.clearTree).drop = e.drop := rfl
@[simp] theorem Engine.clearTree_treeValid (e : Engine) : (e.clearTree).treeValid = false := rfl
@[simp] theorem Engine.clearTree_synTerm (e : Engine) : (e.clearTree).synTerm = e.synTerm := rfl
@[simp] theorem Engine.clearTree_errCode (e : Engine) : (e.clearTree).errCode = e.errCode := rfl
@[simp] theorem Engine.clearTree_errOp (e : Engine) : (e.clearTree).errOp = e.errOp := rfl
@[simp] theorem Engine.clearTree_errInfo0 (e : Engine) : (e.clearTree).errInfo0 = e.errInfo0 := rfl
@[simp] theorem Engine.clearTree_errInfo1 (e : Engine) : (e.clearTree).errInfo1 = e.errInfo1 := rfl
@[simp] theorem Engine.clearTree_result (e : Engine) : (e.clearTree).result = e.result := rfl
@[simp] theorem Engine.clearTree_tblBytes (e : Engine) : (e.clearTree).tblBytes = 0#64 := rfl
@[simp] theorem Engine.clearTree_inCount (e : Engine) : (e.clearTree).inCount = e.inCount := rfl
@[simp] theorem Engine.clearTree_outCount (e : Engine) : (e.clearTree).outCount = e.outCount := rfl
@[simp] theorem Engine.clearTree_symCount (e : Engine) : (e.clearTree).symCount = e.symCount := rfl

@[simp] theorem Engine.setBb_term (e : Engine) (bits : List Bool) : (e.setBb bits).term = e.term := rfl
@[simp] theorem Engine.setBb_freq (e : Engine) (bits : List Bool) : (e.setBb bits).freq = e.freq := rfl
@[simp] theorem Engine.setBb_nodes (e : Engine) (bits : List Bool) : (e.setBb bits).nodes = e.nodes := rfl
@[simp] theorem Engine.setBb_nodeF (e : Engine) (bits : List Bool) : (e.setBb bits).nodeF = e.nodeF := rfl
@[simp] theorem Engine.setBb_root (e : Engine) (bits : List Bool) : (e.setBb bits).root = e.root := rfl
@[simp] theorem Engine.setBb_ct (e : Engine) (bits : List Bool) : (e.setBb bits).ct = e.ct := rfl
@[simp] theorem Engine.setBb_bb (e : Engine) (bits : List Bool) : (e.setBb bits).bb = bits := rfl
@[simp] theorem Engine.setBb_obuf (e : Engine) (bits : List Bool) : (e.setBb bits).obuf = e.obuf := rfl
@[simp] theorem Engine.setBb_err (e : Engine) (bits : List Bool) : (e.setBb bits).err = e.err := rfl
@[simp] theorem Engine.setBb_drop (e : Engine) (bits : List Bool) : (e.setBb bits).drop = e.drop := rfl
@[simp] theorem Engine.setBb_treeValid (e : Engine) (bits : List Bool) : (e.setBb bits).treeValid = e.treeValid := rfl
@[simp] theorem Engine.setBb_synTerm (e : Engine) (bits : List Bool) : (e.setBb bits).synTerm = e.synTerm := rfl
@[simp] theorem Engine.setBb_errCode (e : Engine) (bits : List Bool) : (e.setBb bits).errCode = e.errCode := rfl
@[simp] theorem Engine.setBb_errOp (e : Engine) (bits : List Bool) : (e.setBb bits).errOp = e.errOp := rfl
@[simp] theorem Engine.setBb_errInfo0 (e : Engine) (bits : List Bool) : (e.setBb bits).errInfo0 = e.errInfo0 := rfl
@[simp] theorem Engine.setBb_errInfo1 (e : Engine) (bits : List Bool) : (e.setBb bits).errInfo1 = e.errInfo1 := rfl
@[simp] theorem Engine.setBb_result (e : Engine) (bits : List Bool) : (e.setBb bits).result = e.result := rfl
@[simp] theorem Engine.setBb_tblBytes (e : Engine) (bits : List Bool) : (e.setBb bits).tblBytes = e.tblBytes := rfl
@[simp] theorem Engine.setBb_inCount (e : Engine) (bits : List Bool) : (e.setBb bits).inCount = e.inCount := rfl
@[simp] theorem Engine.setBb_outCount (e : Engine) (bits : List Bool) : (e.setBb bits).outCount = e.outCount := rfl
@[simp] theorem Engine.setBb_symCount (e : Engine) (bits : List Bool) : (e.setBb bits).symCount = e.symCount := rfl

@[simp] theorem Engine.setTerminator_term (e : Engine) (t : Sym) : (e.setTerminator t).term = t := rfl
@[simp] theorem Engine.setTerminator_freq (e : Engine) (t : Sym) : (e.setTerminator t).freq = e.freq := rfl
@[simp] theorem Engine.setTerminator_nodes (e : Engine) (t : Sym) : (e.setTerminator t).nodes = [] := rfl
@[simp] theorem Engine.setTerminator_nodeF (e : Engine) (t : Sym) : (e.setTerminator t).nodeF = e.nodeF := rfl
@[simp] theorem Engine.setTerminator_root (e : Engine) (t : Sym) : (e.setTerminator t).root = 0 := rfl
@[simp] theorem Engine.setTerminator_ct (e : Engine) (t : Sym) : (e.setTerminator t).ct = emptyCt := rfl
@[simp] theorem Engine.setTerminator_bb (e : Engine) (t : Sym) : (e.setTerminator t).bb = e.bb := rfl
@[simp] theorem Engine.setTerminator_obuf (e : Engine) (t : Sym) : (e.setTerminator t).obuf = e.obuf := rfl
@[simp] theorem Engine.setTerminator_err (e : Engine) (t : Sym) : (e.setTerminator t).err = e.err := rfl
@[simp] theorem Engine.setTerminator_drop (e : Engine) (t : Sym) : (e.setTerminator t).drop = e.drop := rfl
@[simp] theorem Engine.setTerminator_treeValid (e : Engine) (t : Sym) : (e.setTerminator t).treeValid = false := rfl
@[simp] theorem Engine.setTerminator_synTerm (e : Engine) (t : Sym) : (e.setTerminator t).synTerm = false := rfl
@[simp] theorem Engine.setTerminator_errCode (e : Engine) (t : Sym) : (e.setTerminator t).errCode = e.errCode := rfl
@[simp] theorem Engine.setTerminator_errOp (e : Engine) (t : Sym) : (e.setTerminator t).errOp = e.errOp := rfl
@[simp] theorem Engine.setTerminator_errInfo0 (e : Engine) (t : Sym) : (e.setTerminator t).errInfo0 = e.errInfo0 := rfl
@[simp] theorem Engine.setTerminator_errInfo1 (e : Engine) (t : Sym) : (e.setTerminator t).errInfo1 = e.errInfo1 := rfl
@[simp] theorem Engine.setTerminator_result (e : Engine) (t : Sym) : (e.setTerminator t).result = e.result := rfl
@[simp] theorem Engine.setTerminator_tblBytes (e : Engine) (t : Sym) : (e.setTerminator t).tblBytes = 0#64 := rfl
@[simp] theorem Engine.setTerminator_inCount (e : Engine) (t : Sym) : (e.setTerminator t).inCount = e.inCount := rfl
@[simp] theorem Engine.setTerminator_outCount (e : Engine) (t : Sym) : (e.setTerminator t).outCount = e.outCount := rfl
@[simp] theorem Engine.setTerminator_symCount (e : Engine) (t : Sym) : (e.setTerminator t).symCount = e.symCount := rfl

@[simp] theorem Engine.installImport_term (e : Engine) (t : Rebuild) : (e.installImport t).term = e.term := rfl
@[simp] theorem Engine.installImport_freq (e : Engine) (t : Rebuild) : (e.installImport t).freq = e.freq := rfl
@[simp] theorem Engine.installImport_nodes (e : Engine) (t : Rebuild) : (e.installImport t).nodes = t.nodes := rfl
@[simp] theorem Engine.installImport_nodeF (e : Engine) (t : Rebuild) : (e.installImport t).nodeF = e.nodeF := rfl
@[simp] theorem Engine.installImport_root (e : Engine) (t : Rebuild) : (e.installImport t).root = 0 := rfl
@[simp] theorem Engine.installImport_ct (e : Engine) (t : Rebuild) : (e.installImport t).ct = t.ct := rfl
@[simp] theorem Engine.installImport_bb (e : Engine) (t : Rebuild) : (e.installImport t).bb = e.bb := rfl
@[simp] theorem Engine.installImport_obuf (e : Engine) (t : Rebuild) : (e.installImport t).obuf = e.obuf := rfl
@[simp] theorem Engine.installImport_err (e : Engine) (t : Rebuild) : (e.installImport t).err = e.err := rfl
@[simp] theorem Engine.installImport_drop (e : Engine) (t : Rebuild) : (e.installImport t).drop = e.drop := rfl
@[simp] theorem Engine.installImport_treeValid (e : Engine) (t : Rebuild) : (e.installImport t).treeValid = true := rfl
@[simp] theorem Engine.installImport_synTerm (e : Engine) (t : Rebuild) : (e.installImport t).synTerm = e.synTerm := rfl
@[simp] theorem Engine.installImport_errCode (e : Engine) (t : Rebuild) : (e.installImport t).errCode = e.errCode := rfl
@[simp] theorem Engine.installImport_errOp (e : Engine) (t : Rebuild) : (e.installImport t).errOp = e.errOp := rfl
@[simp] theorem Engine.installImport_errInfo0 (e : Engine) (t : Rebuild) : (e.installImport t).errInfo0 = e.errInfo0 := rfl
@[simp] theorem Engine.installImport_errInfo1 (e : Engine) (t : Rebuild) : (e.installImport t).errInfo1 = e.errInfo1 := rfl
@[simp] theorem Engine.installImport_result (e : Engine) (t : Rebuild) : (e.installImport t).result = e.result := rfl
@[simp] theorem Engine.installImport_tblBytes (e : Engine) (t : Rebuild) : (e.installImport t).tblBytes = BitVec.ofNat 64 (tableBytes t.ct (countLeaves t.nodes)) := rfl
@[simp] theorem Engine.installImport_inCount (e : Engine) (t : Rebuild) : (e.installImport t).inCount = e.inCount := rfl
@[simp] theorem Engine.installImport_outCount (e : Engine) (t : Rebuild) : (e.installImport t).outCount = e.outCount := rfl
@[simp] theorem Engine.installImport_symCount (e : Engine) (t : Rebuild) : (e.installImport t).symCount = e.symCount := rfl

/-! ### State -/

@[simp] theorem State.setEng_eng (s : State) (e : Engine) : (s.setEng e).eng = e := rfl
@[simp] theorem State.setEng_inp (s : State) (e : Engine) : (s.setEng e).inp = s.inp := rfl
@[simp] theorem State.setEng_symIn (s : State) (e : Engine) : (s.setEng e).symIn = s.symIn := rfl
@[simp] theorem State.setEng_out (s : State) (e : Engine) : (s.setEng e).out = s.out := rfl
@[simp] theorem State.setEng_symOut (s : State) (e : Engine) : (s.setEng e).symOut = s.symOut := rfl
@[simp] theorem State.setEng_host (s : State) (e : Engine) : (s.setEng e).host = s.host := rfl
@[simp] theorem State.setEng_readData (s : State) (e : Engine) : (s.setEng e).readData = s.readData := rfl

@[simp] theorem State.setEng_setEng (s : State) (e e' : Engine) : (s.setEng e).setEng e' = s.setEng e' := rfl

@[simp] theorem State.setEng_eng_self (s : State) : s.setEng s.eng = s := rfl

@[simp] theorem State.readIn_eng (s : State) (k : Nat) : (s.readIn k).eng = { s.eng with inCount := s.eng.inCount + BitVec.ofNat 64 k } := rfl
@[simp] theorem State.readIn_inp (s : State) (k : Nat) : (s.readIn k).inp = { s.inp with units := s.inp.units.drop k } := rfl
@[simp] theorem State.readIn_symIn (s : State) (k : Nat) : (s.readIn k).symIn = s.symIn := rfl
@[simp] theorem State.readIn_out (s : State) (k : Nat) : (s.readIn k).out = s.out := rfl
@[simp] theorem State.readIn_symOut (s : State) (k : Nat) : (s.readIn k).symOut = s.symOut := rfl
@[simp] theorem State.readIn_host (s : State) (k : Nat) : (s.readIn k).host = s.host := rfl
@[simp] theorem State.readIn_readData (s : State) (k : Nat) : (s.readIn k).readData = s.readData := rfl

@[simp] theorem State.readSym_eng (s : State) (k : Nat) : (s.readSym k).eng = { s.eng with symCount := s.eng.symCount + BitVec.ofNat 64 k } := rfl
@[simp] theorem State.readSym_inp (s : State) (k : Nat) : (s.readSym k).inp = s.inp := rfl
@[simp] theorem State.readSym_symIn (s : State) (k : Nat) : (s.readSym k).symIn = { s.symIn with units := s.symIn.units.drop k } := rfl
@[simp] theorem State.readSym_out (s : State) (k : Nat) : (s.readSym k).out = s.out := rfl
@[simp] theorem State.readSym_symOut (s : State) (k : Nat) : (s.readSym k).symOut = s.symOut := rfl
@[simp] theorem State.readSym_host (s : State) (k : Nat) : (s.readSym k).host = s.host := rfl
@[simp] theorem State.readSym_readData (s : State) (k : Nat) : (s.readSym k).readData = s.readData := rfl

@[simp] theorem State.writeOut_eng (s : State) (bytes : List Byte) : (s.writeOut bytes).eng = { s.eng with outCount := s.eng.outCount + BitVec.ofNat 64 bytes.length } := rfl
@[simp] theorem State.writeOut_inp (s : State) (bytes : List Byte) : (s.writeOut bytes).inp = s.inp := rfl
@[simp] theorem State.writeOut_symIn (s : State) (bytes : List Byte) : (s.writeOut bytes).symIn = s.symIn := rfl
@[simp] theorem State.writeOut_out (s : State) (bytes : List Byte) : (s.writeOut bytes).out = s.out ++ bytes := rfl
@[simp] theorem State.writeOut_symOut (s : State) (bytes : List Byte) : (s.writeOut bytes).symOut = s.symOut := rfl
@[simp] theorem State.writeOut_host (s : State) (bytes : List Byte) : (s.writeOut bytes).host = s.host := rfl
@[simp] theorem State.writeOut_readData (s : State) (bytes : List Byte) : (s.writeOut bytes).readData = s.readData := rfl

@[simp] theorem State.writeSymOut_eng (s : State) (syms : List Sym) : (s.writeSymOut syms).eng = s.eng := rfl
@[simp] theorem State.writeSymOut_inp (s : State) (syms : List Sym) : (s.writeSymOut syms).inp = s.inp := rfl
@[simp] theorem State.writeSymOut_symIn (s : State) (syms : List Sym) : (s.writeSymOut syms).symIn = s.symIn := rfl
@[simp] theorem State.writeSymOut_out (s : State) (syms : List Sym) : (s.writeSymOut syms).out = s.out := rfl
@[simp] theorem State.writeSymOut_symOut (s : State) (syms : List Sym) : (s.writeSymOut syms).symOut = s.symOut ++ syms := rfl
@[simp] theorem State.writeSymOut_host (s : State) (syms : List Sym) : (s.writeSymOut syms).host = s.host := rfl
@[simp] theorem State.writeSymOut_readData (s : State) (syms : List Sym) : (s.writeSymOut syms).readData = s.readData := rfl

@[simp] theorem State.keepWalk_eng (s : State) (w : Walk) : (s.keepWalk w).eng = { s.eng with obuf := w.obuf, symCount := s.eng.symCount + BitVec.ofNat 64 w.obuf.length } := rfl
@[simp] theorem State.keepWalk_inp (s : State) (w : Walk) : (s.keepWalk w).inp = s.inp := rfl
@[simp] theorem State.keepWalk_symIn (s : State) (w : Walk) : (s.keepWalk w).symIn = s.symIn := rfl
@[simp] theorem State.keepWalk_out (s : State) (w : Walk) : (s.keepWalk w).out = s.out := rfl
@[simp] theorem State.keepWalk_symOut (s : State) (w : Walk) : (s.keepWalk w).symOut = s.symOut := rfl
@[simp] theorem State.keepWalk_host (s : State) (w : Walk) : (s.keepWalk w).host = s.host := rfl
@[simp] theorem State.keepWalk_readData (s : State) (w : Walk) : (s.keepWalk w).readData = s.readData := rfl

/-! ### The host's moves -/

@[simp] theorem supplyIn_eng (bytes : List Byte) (tail : StreamEnd) (s : State) : (supplyIn bytes tail s).eng = s.eng := rfl
@[simp] theorem supplyIn_inp (bytes : List Byte) (tail : StreamEnd) (s : State) : (supplyIn bytes tail s).inp = { units := s.inp.units ++ bytes, tail := tail } := rfl
@[simp] theorem supplyIn_symIn (bytes : List Byte) (tail : StreamEnd) (s : State) : (supplyIn bytes tail s).symIn = s.symIn := rfl
@[simp] theorem supplyIn_out (bytes : List Byte) (tail : StreamEnd) (s : State) : (supplyIn bytes tail s).out = s.out := rfl
@[simp] theorem supplyIn_symOut (bytes : List Byte) (tail : StreamEnd) (s : State) : (supplyIn bytes tail s).symOut = s.symOut := rfl
@[simp] theorem supplyIn_host (bytes : List Byte) (tail : StreamEnd) (s : State) : (supplyIn bytes tail s).host = s.host := rfl
@[simp] theorem supplyIn_readData (bytes : List Byte) (tail : StreamEnd) (s : State) : (supplyIn bytes tail s).readData = s.readData := rfl

@[simp] theorem supplySym_eng (syms : List Sym) (tail : StreamEnd) (s : State) : (supplySym syms tail s).eng = s.eng := rfl
@[simp] theorem supplySym_inp (syms : List Sym) (tail : StreamEnd) (s : State) : (supplySym syms tail s).inp = s.inp := rfl
@[simp] theorem supplySym_symIn (syms : List Sym) (tail : StreamEnd) (s : State) : (supplySym syms tail s).symIn = { units := s.symIn.units ++ syms, tail := tail } := rfl
@[simp] theorem supplySym_out (syms : List Sym) (tail : StreamEnd) (s : State) : (supplySym syms tail s).out = s.out := rfl
@[simp] theorem supplySym_symOut (syms : List Sym) (tail : StreamEnd) (s : State) : (supplySym syms tail s).symOut = s.symOut := rfl
@[simp] theorem supplySym_host (syms : List Sym) (tail : StreamEnd) (s : State) : (supplySym syms tail s).host = s.host := rfl
@[simp] theorem supplySym_readData (syms : List Sym) (tail : StreamEnd) (s : State) : (supplySym syms tail s).readData = s.readData := rfl

@[simp] theorem readRegister_eng (offset : Nat) (s : State) : (readRegister offset s).eng = s.eng := rfl
@[simp] theorem readRegister_inp (offset : Nat) (s : State) : (readRegister offset s).inp = s.inp := rfl
@[simp] theorem readRegister_symIn (offset : Nat) (s : State) : (readRegister offset s).symIn = s.symIn := rfl
@[simp] theorem readRegister_out (offset : Nat) (s : State) : (readRegister offset s).out = s.out := rfl
@[simp] theorem readRegister_symOut (offset : Nat) (s : State) : (readRegister offset s).symOut = s.symOut := rfl
@[simp] theorem readRegister_host (offset : Nat) (s : State) : (readRegister offset s).host = s.host := rfl
@[simp] theorem readRegister_readData (offset : Nat) (s : State) : (readRegister offset s).readData = s.readData ++ [readReg s.eng offset] := rfl

@[simp] theorem consumeIn_eng (count : Nat) (s : State) : (consumeIn count s).eng = s.eng := rfl
@[simp] theorem consumeIn_inp (count : Nat) (s : State) : (consumeIn count s).inp = { s.inp with units := s.inp.units.drop count } := rfl
@[simp] theorem consumeIn_symIn (count : Nat) (s : State) : (consumeIn count s).symIn = s.symIn := rfl
@[simp] theorem consumeIn_out (count : Nat) (s : State) : (consumeIn count s).out = s.out := rfl
@[simp] theorem consumeIn_symOut (count : Nat) (s : State) : (consumeIn count s).symOut = s.symOut := rfl
@[simp] theorem consumeIn_host (count : Nat) (s : State) : (consumeIn count s).host = s.host := rfl
@[simp] theorem consumeIn_readData (count : Nat) (s : State) : (consumeIn count s).readData = s.readData := rfl

@[simp] theorem assertReset_eng (s : State) : (assertReset s).eng = Engine.reset := rfl
@[simp] theorem assertReset_inp (s : State) : (assertReset s).inp = s.inp := rfl
@[simp] theorem assertReset_symIn (s : State) : (assertReset s).symIn = s.symIn := rfl
@[simp] theorem assertReset_out (s : State) : (assertReset s).out = s.out := rfl
@[simp] theorem assertReset_symOut (s : State) : (assertReset s).symOut = s.symOut := rfl
@[simp] theorem assertReset_host (s : State) : (assertReset s).host = s.host := rfl
@[simp] theorem assertReset_readData (s : State) : (assertReset s).readData = s.readData := rfl

end Sys2Proof.Machine
end

