-- ==== Sys2Proof/Laws/Ops.lean ====
section
/-! SUPPORT. What each shared operation can do, once: the command frame (R228), the checks, the streams' ends, loading the
buffer, and the tables indexed by a symbol. -/

namespace Sys2Proof.Machine

/-! ### Tables indexed by a symbol -/

@[simp] theorem symGet_symPut_self {α : Type} (t : SymTable α) (s : Sym) (x : α) : symGet (symPut t s x) s = x := by
  simp [symGet, symPut]

theorem symGet_symPut_other {α : Type} (t : SymTable α) {s s' : Sym} (x : α) (h : s ≠ s') :
    symGet (symPut t s x) s' = symGet t s' := by
  have hne : s.toNat ≠ s'.toNat := fun e => h (BitVec.eq_of_toNat_eq e)
  simp [symGet, symPut, hne]

@[simp] theorem symGet_emptyCt (s : Sym) : symGet emptyCt s = none := by simp [symGet, emptyCt]

@[simp] theorem symGet_emptyFreq (s : Sym) : symGet emptyFreq s = none := by simp [symGet, emptyFreq]

theorem symTable_ext {α : Type} {t t' : SymTable α} (h : ∀ s, symGet t s = symGet t' s) : t = t' := by
  apply Vector.ext
  intro i hi
  have hs : (BitVec.ofNat Config.symw i).toNat = i := Nat.mod_eq_of_lt hi
  have := h (BitVec.ofNat Config.symw i)
  simpa [symGet, hs] using this

theorem mem_allSyms (s : Sym) : s ∈ allSyms :=
  List.mem_map.2 ⟨s.toNat, List.mem_range.2 (sym_toNat_lt s), BitVec.eq_of_toNat_eq (by simp)⟩

theorem allSyms_ascending : allSyms.Pairwise (fun a b => a.toNat < b.toNat) := by
  refine List.pairwise_map.2 ((List.pairwise_lt_range (n := Config.nsym)).imp_of_mem ?_)
  intro a b ha hb hab
  rw [List.mem_range] at ha hb
  simpa [Nat.mod_eq_of_lt ha, Nat.mod_eq_of_lt hb] using hab

theorem allSyms_nodup : allSyms.Nodup :=
  allSyms_ascending.imp (fun h e => absurd (congrArg BitVec.toNat e) (Nat.ne_of_lt h))

theorem mem_ctEntries {ct : CodeTable} {s : Sym} {p : Path} : (s, p) ∈ ctEntries ct ↔ symGet ct s = some p := by
  unfold ctEntries
  simp only [List.mem_filterMap, Option.map_eq_some_iff, Prod.mk.injEq]
  constructor
  · rintro ⟨a, _, q, hq, rfl, rfl⟩
    exact hq
  · exact fun h => ⟨s, mem_allSyms s, p, h, rfl, rfl⟩

/-! ### The frame of a command (R228) -/

@[simp] theorem finish_ok (op : BitVec 8) (s : State) : finish op (.ok s) = .next s := rfl

@[simp] theorem finish_raised (op : BitVec 8) (s : State) (code : ErrCode) (i0 i1 : Reg) :
    finish op (.raised s code i0 i1) = .next (s.setEng (s.eng.enterError op code i0 i1)) := rfl

@[simp] theorem finish_stuck (op : BitVec 8) (f : Fault) : finish op (.stuck f) = .fault f := rfl

/-- R226: while ERR = 1 a command only sets DROP. -/
theorem runCommand_dropped {s : State} (op : BitVec 8) (body : State → Result) (h : s.eng.err = true) :
    runCommand op body s = .next (s.setEng s.eng.markDropped) := by
  simp [runCommand, h]

/-- With ERR = 0 a command zeroes the counters and runs. -/
theorem runCommand_runs {s : State} (op : BitVec 8) (body : State → Result) (h : s.eng.err = false) :
    runCommand op body s = finish op (body (s.setEng s.eng.zeroCounters)) := by
  simp [runCommand, h]

/-- Everything a command can do where it answers a next state: it was dropped, its body came to its end, or its body
raised and error entry followed. -/
theorem runCommand_next {op : BitVec 8} {body : State → Result} {s t : State} (h : runCommand op body s = .next t) :
    (s.eng.err = true ∧ t = s.setEng s.eng.markDropped) ∨
    (s.eng.err = false ∧ body (s.setEng s.eng.zeroCounters) = .ok t) ∨
    (s.eng.err = false ∧ ∃ u code i0 i1, body (s.setEng s.eng.zeroCounters) = .raised u code i0 i1 ∧
      t = u.setEng (u.eng.enterError op code i0 i1)) := by
  cases hErr : s.eng.err with
  | true =>
    rw [runCommand_dropped op body hErr] at h
    cases h
    exact .inl ⟨rfl, rfl⟩
  | false =>
    rw [runCommand_runs op body hErr] at h
    cases hBody : body (s.setEng s.eng.zeroCounters) with
    | ok u =>
      rw [hBody] at h
      cases h
      exact .inr (.inl ⟨rfl, rfl⟩)
    | raised u code i0 i1 =>
      rw [hBody] at h
      cases h
      exact .inr (.inr ⟨rfl, u, code, i0, i1, rfl, rfl⟩)
    | stuck f =>
      rw [hBody] at h
      cases h

theorem runRecovery_eq (body : Engine → Engine) (s : State) :
    runRecovery body s = .next (s.setEng (body s.eng.zeroCounters)) := rfl

/-! ### The checks and the streams' ends -/

theorem needTree_valid {s : State} (op : BitVec 8) (body : State → Result) (h : s.eng.treeValid = true) :
    needTree op body s = body s := by
  simp [needTree, h]

theorem needTree_missing {s : State} (op : BitVec 8) (body : State → Result) (h : s.eng.treeValid = false) :
    needTree op body s = .raised s .noTree (infoOp op) 0#64 := by
  simp [needTree, h]

theorem atEndOfIn_eof {s : State} (r : Result) (h : s.inp.tail = .eof) : atEndOfIn s r = r := by
  simp [atEndOfIn, h]

theorem atEndOfIn_withheld {s : State} (r : Result) (h : s.inp.tail = .withheld) : atEndOfIn s r = .stuck .stuckIn := by
  simp [atEndOfIn, h]

theorem atEndOfSym_eof {s : State} (r : Result) (h : s.symIn.tail = .eof) : atEndOfSym s r = r := by
  simp [atEndOfSym, h]

theorem atEndOfSym_withheld {s : State} (r : Result) (h : s.symIn.tail = .withheld) :
    atEndOfSym s r = .stuck .stuckSymIn := by
  simp [atEndOfSym, h]

/-! ### Loading the buffer -/

/-- The state after the `n` bytes, or all there are, are in the buffer. -/
theorem loadBuffer_tooLong {n : Nat} (done : State → Result) (s : State) (h : Config.bbCapBits < 8 * n) :
    loadBuffer n done s = .raised s .resource 1#64 (infoNat (8 * n)) := by
  unfold loadBuffer
  rw [if_pos h]

theorem loadBuffer_enough {n : Nat} (done : State → Result) (s : State) (h : 8 * n ≤ Config.bbCapBits)
    (hn : n ≤ s.inp.units.length) :
    loadBuffer n done s =
      done ((s.readIn n).setEng ((s.readIn n).eng.setBb (bytesToBits (s.inp.units.take n)))) := by
  have hlen : (s.inp.units.take n).length = n := by simp [hn]
  unfold loadBuffer
  rw [if_neg (Nat.not_lt.2 h)]
  simp only [hlen, Nat.lt_irrefl, if_false]

theorem loadBuffer_short {n : Nat} (done : State → Result) (s : State) (h : 8 * n ≤ Config.bbCapBits)
    (hn : s.inp.units.length < n) :
    loadBuffer n done s =
      atEndOfIn ((s.readIn s.inp.units.length).setEng
          ((s.readIn s.inp.units.length).eng.setBb (bytesToBits s.inp.units)))
        (.raised ((s.readIn s.inp.units.length).setEng
            ((s.readIn s.inp.units.length).eng.setBb (bytesToBits s.inp.units)))
          .truncation (infoNat n) (infoNat s.inp.units.length)) := by
  have htake : s.inp.units.take n = s.inp.units := List.take_of_length_le (Nat.le_of_lt hn)
  unfold loadBuffer
  rw [if_neg (Nat.not_lt.2 h)]
  simp only [htake, hn, if_true]

/-! ### The bit buffer's primitive -/

theorem appendBit_full {bits : List Bool} (b : Bool) (h : Config.bbCapBits ≤ bits.length) : appendBit bits b = none := by
  unfold appendBit
  rw [if_pos h]

theorem appendBit_room {bits : List Bool} (b : Bool) (h : bits.length < Config.bbCapBits) :
    appendBit bits b = some (bits ++ [b]) := by
  unfold appendBit
  rw [if_neg (Nat.not_le.2 h)]

end Sys2Proof.Machine
end

