-- ==== Sys2Proof/Laws/CodeTable.lean ====
section
/-! SUPPORT. What TABLE_IMPORT's reading of a text can answer (42_code_table.md R150, R153). -/

namespace Sys2Proof.Machine

/-- Everything that holds of a text that is read as a table: it parses to that tree, and TERM has a code (R153). -/
theorem importText_ok {term : Sym} {text : List Byte} {t : Rebuild} (h : importText term text = .ok t) :
    parseText 0 text (.char 0 []) Rebuild.start = .ok t ∧ (symGet t.ct term).isSome = true := by
  unfold importText at h
  split at h
  · cases h
  · rename_i t' hp
    split at h
    · cases h
      exact ⟨hp, ‹_›⟩
    · cases h

/-- An error met in the parse is the import's (R151: the first one found). -/
theorem importText_stop {term : Sym} {text : List Byte} {stop : ImportStop}
    (h : parseText 0 text (.char 0 []) Rebuild.start = .error stop) : importText term text = .error stop := by
  simp [importText, h]

/-- R153: a text that parses without an entry for TERM. -/
theorem importText_noTerminator {term : Sym} {text : List Byte} {t : Rebuild}
    (h : parseText 0 text (.char 0 []) Rebuild.start = .ok t) (ht : symGet t.ct term = none) :
    importText term text = .error (.corrupt text.length .noTerminator) := by
  simp [importText, h, ht]

/-- The first byte that ends the parse decides: no later byte is examined (R151). -/
theorem parseText_cons_error {p : Nat} {x : Byte} {st : Parse} {t : Rebuild} {stop : ImportStop} (rest : List Byte)
    (h : parseByte p x st t = .error stop) : parseText p (x :: rest) st t = .error stop := by
  simp [parseText, h]

theorem parseText_cons_ok {p : Nat} {x : Byte} {st st' : Parse} {t t' : Rebuild} (rest : List Byte)
    (h : parseByte p x st t = .ok (st', t')) : parseText p (x :: rest) st t = parseText (p + 1) rest st' t' := by
  simp [parseText, h]

end Sys2Proof.Machine
end

