-- ==== Sys2Proof/Laws/Codec.lean ====
section
/-! SUPPORT. The decoders' shared walk (43_codec.md R174, R180): going on after a part of the bits, how each end of a walk
ends the command, and the small lemmas of what claims say of a decode. -/

namespace Sys2Proof.Machine

/-! ### The walk -/

/-- A walk that wants more bits goes on from where it stands. -/
theorem walkBits_append_of_running {env : WalkEnv} {w w' : Walk} {front : List Bool} (rest : List Bool)
    (h : walkBits env w front = .running w') : walkBits env w (front ++ rest) = walkBits env w' rest := by
  induction front generalizing w with
  | nil =>
    cases h
    rfl
  | cons b front ih =>
    simp only [walkBits, List.cons_append] at h ⊢
    cases hb : walkBit env w b with
    | running v =>
      rw [hb] at h
      exact ih h
    | returned v =>
      rw [hb] at h
      cases h
    | failed v code i0 i1 =>
      rw [hb] at h
      cases h

/-- R176: a bit that finds no child. -/
theorem walkBit_missing {env : WalkEnv} {w : Walk} {b : Bool} (h : nextNode env.nodes w.h b = none) :
    walkBit env w b = .failed { w with k := w.k + 1 } .malformed (infoNat w.k) (infoNat w.h) := by
  simp [walkBit, h]

/-- A bit that leads to an INTERNAL record. -/
theorem walkBit_internal {env : WalkEnv} {w : Walk} {b : Bool} {c : Handle} {l r : Option Handle}
    (h : nextNode env.nodes w.h b = some c) (hc : env.nodes[c]? = some (.internal l r)) :
    walkBit env w b = .running { w with h := c, k := w.k + 1 } := by
  simp [walkBit, h, hc]

/-- A bit that leads to the TERM leaf. -/
theorem walkBit_term {env : WalkEnv} {w : Walk} {b : Bool} {c : Handle}
    (h : nextNode env.nodes w.h b = some c) (hc : env.nodes[c]? = some (.leaf env.term)) :
    walkBit env w b = .returned { w with h := c, k := w.k + 1 } := by
  simp [walkBit, h, hc]

/-- A bit that leads to a data leaf. -/
theorem walkBit_data {env : WalkEnv} {w : Walk} {b : Bool} {c : Handle} {x : Sym}
    (h : nextNode env.nodes w.h b = some c) (hc : env.nodes[c]? = some (.leaf x)) (hx : x ≠ env.term) :
    walkBit env w b = storeSymbol env x { w with h := c, k := w.k + 1 } := by
  simp [walkBit, h, hc, hx]

/-- R177: CAPACITY is checked before the OBUF limit. -/
theorem storeSymbol_capacity {env : WalkEnv} (x : Sym) {w : Walk} (h : env.cap = some w.obuf.length) :
    storeSymbol env x w = .failed w .capacity (infoNat w.obuf.length) (infoSym x) := by
  simp [storeSymbol, h]

theorem storeSymbol_full {env : WalkEnv} (x : Sym) {w : Walk} (hc : env.cap ≠ some w.obuf.length)
    (h : w.obuf.length = Config.obufCap) :
    storeSymbol env x w = .failed w .resource 2#64 (infoNat (Config.obufCap + 1)) := by
  unfold storeSymbol
  rw [if_neg hc, if_pos h]

theorem storeSymbol_room {env : WalkEnv} (x : Sym) {w : Walk} (hc : env.cap ≠ some w.obuf.length)
    (h : w.obuf.length ≠ Config.obufCap) :
    storeSymbol env x w = .running { w with h := env.root, obuf := w.obuf ++ [x] } := by
  unfold storeSymbol
  rw [if_neg hc, if_neg h]

/-! ### How a walk's end ends the command -/

@[simp] theorem finishWalk_running (s : State) (onEnd : Walk → State → Result) (w : Walk) :
    finishWalk s onEnd (.running w) = onEnd w (s.keepWalk w) := rfl

@[simp] theorem finishWalk_returned (s : State) (onEnd : Walk → State → Result) (w : Walk) :
    finishWalk s onEnd (.returned w) = .ok ((s.keepWalk w).writeSymOut w.obuf) := rfl

@[simp] theorem finishWalk_failed (s : State) (onEnd : Walk → State → Result) (w : Walk) (code : ErrCode) (i0 i1 : Reg) :
    finishWalk s onEnd (.failed w code i0 i1) = .raised (s.keepWalk w) code i0 i1 := rfl

/-! ### What claims say of a decode -/

theorem dataText_nil (e : Engine) : e.DataText [] := fun _ hx => absurd hx (by simp)

theorem dataText_cons {e : Engine} {x : Sym} {text : List Sym} :
    e.DataText (x :: text) ↔ (e.ctV x = true ∧ x ≠ e.term) ∧ e.DataText text := List.forall_mem_cons

@[simp] theorem decodeRaised_symOut (s : State) (op : BitVec 8) (code : ErrCode) (i0 i1 : Reg) (text : List Sym) (k : Nat) :
    (s.decodeRaised op code i0 i1 text k).symOut = s.symOut := rfl

@[simp] theorem decodeRaised_units (s : State) (op : BitVec 8) (code : ErrCode) (i0 i1 : Reg) (text : List Sym) (k : Nat) :
    (s.decodeRaised op code i0 i1 text k).inp.units = s.inp.units.drop k := rfl

@[simp] theorem decodeRaised_errCode (s : State) (op : BitVec 8) (code : ErrCode) (i0 i1 : Reg) (text : List Sym) (k : Nat) :
    (s.decodeRaised op code i0 i1 text k).eng.errCode = code := rfl

end Sys2Proof.Machine
end

