-- ==== Sys2Proof/Laws/Decode.lean ====
section
/-! SUPPORT. The fields of a packed descriptor, and a field's bits (30_encoding.md R70, R71). -/

namespace Sys2Proof

/-- A packed descriptor bit by bit. -/
theorem packFields_getLsbD (op : BitVec 8) (sym : BitVec 16) (n : BitVec 32) (val : BitVec 64) (k : Nat) :
    (packFields op sym n val).getLsbD k =
      if k < 8 then op.getLsbD k
      else if k < 16 then false
      else if k < 32 then sym.getLsbD (k - 16)
      else if k < 64 then n.getLsbD (k - 32)
      else val.getLsbD (k - 64) := by
  show (val ++ n ++ sym ++ 0#8 ++ op : BitVec (64 + 32 + 16 + 8 + 8)).getLsbD k = _
  rw [BitVec.getLsbD_append, BitVec.getLsbD_append, BitVec.getLsbD_append, BitVec.getLsbD_append]
  simp only [Nat.sub_sub, BitVec.getLsbD_zero, Nat.reduceAdd]
  have e1 : k - 8 < 8 ↔ k < 16 := by omega
  have e2 : k - 16 < 16 ↔ k < 32 := by omega
  have e3 : k - 32 < 32 ↔ k < 64 := by omega
  simp only [e1, e2, e3]

@[simp] theorem opField_packFields (op : BitVec 8) (sym : BitVec 16) (n : BitVec 32) (val : BitVec 64) :
    opField (packFields op sym n val) = op := by
  ext i hi
  simp [opField, BitVec.getElem_extractLsb', packFields_getLsbD, hi]

@[simp] theorem rsvField_packFields (op : BitVec 8) (sym : BitVec 16) (n : BitVec 32) (val : BitVec 64) :
    rsvField (packFields op sym n val) = 0#8 := by
  ext i hi
  have h : 8 + i < 16 := by omega
  simp [rsvField, BitVec.getElem_extractLsb', packFields_getLsbD, h]

@[simp] theorem symField_packFields (op : BitVec 8) (sym : BitVec 16) (n : BitVec 32) (val : BitVec 64) :
    symField (packFields op sym n val) = sym := by
  ext i hi
  have h1 : ¬ 16 + i < 8 := by omega
  have h2 : 16 + i < 32 := by omega
  simp [symField, BitVec.getElem_extractLsb', packFields_getLsbD, h1, h2, hi]

@[simp] theorem nField_packFields (op : BitVec 8) (sym : BitVec 16) (n : BitVec 32) (val : BitVec 64) :
    nField (packFields op sym n val) = n := by
  ext i hi
  have h1 : ¬ 32 + i < 8 := by omega
  have h2 : ¬ 32 + i < 16 := by omega
  have h3 : 32 + i < 64 := by omega
  simp [nField, BitVec.getElem_extractLsb', packFields_getLsbD, h1, h2, h3, hi]

@[simp] theorem valField_packFields (op : BitVec 8) (sym : BitVec 16) (n : BitVec 32) (val : BitVec 64) :
    valField (packFields op sym n val) = val := by
  ext i hi
  have h1 : ¬ 64 + i < 8 := by omega
  have h2 : ¬ 64 + i < 16 := by omega
  have h3 : ¬ 64 + i < 32 := by omega
  simp [valField, BitVec.getElem_extractLsb', packFields_getLsbD, h1, h2, h3, hi]

/-- The symbol operand is the low part of SYM (R71). -/
theorem symOperand_eq (d : Descriptor) : symOperand d = (symField d).setWidth Config.symw := by
  ext i hi
  have h16 : i < 16 := Nat.lt_of_lt_of_le hi (by decide)
  simp [symOperand, symField, h16]

/-- The bit operand is the lowest bit of VAL (R71). -/
theorem bitOperand_eq (d : Descriptor) : bitOperand d = (valField d).getLsbD 0 := by
  simp [bitOperand, valField]

end Sys2Proof
end

