-- ==== Sys2Proof/Laws/PerInstr.lean ====
section
/-! SUPPORT. One statement about every command as syntax, and its lemma for each constructor: the OP byte and the reserved
byte of a command's descriptor (30_encoding.md R70, R73). -/

namespace Sys2Proof.Laws.OpByte

/-- The descriptor of a command holds its opcode in OP and 0 in RSV. -/
def Statement (i : Instr) : Prop := opField (Sys2Proof.encode i) = opcode i ∧ rsvField (Sys2Proof.encode i) = 0#8

theorem nop : Statement .nop := by simp [Statement, Sys2Proof.encode]
theorem reset : Statement .reset := by simp [Statement, Sys2Proof.encode]
theorem errAck : Statement .errAck := by simp [Statement, Sys2Proof.encode]
theorem setTerm (t : Sym) : Statement (.setTerm t) := by simp [Statement, Sys2Proof.encode]
theorem freqClear : Statement .freqClear := by simp [Statement, Sys2Proof.encode]
theorem freqSet (s : Sym) (v : BitVec Config.freqw) : Statement (.freqSet s v) := by simp [Statement, Sys2Proof.encode]
theorem build : Statement .build := by simp [Statement, Sys2Proof.encode]
theorem tableExport : Statement .tableExport := by simp [Statement, Sys2Proof.encode]
theorem tableImport (n : BitVec 32) : Statement (.tableImport n) := by simp [Statement, Sys2Proof.encode]
theorem ctRead (s : Sym) : Statement (.ctRead s) := by simp [Statement, Sys2Proof.encode]
theorem encode (n : BitVec 32) : Statement (.encode n) := by simp [Statement, Sys2Proof.encode]
theorem decodeBb : Statement .decodeBb := by simp [Statement, Sys2Proof.encode]
theorem decodeStream (cap : BitVec 32) : Statement (.decodeStream cap) := by simp [Statement, Sys2Proof.encode]
theorem bbClear : Statement .bbClear := by simp [Statement, Sys2Proof.encode]
theorem bbAppend (b : Bool) : Statement (.bbAppend b) := by simp [Statement, Sys2Proof.encode]
theorem bbGet (i : BitVec 32) : Statement (.bbGet i) := by simp [Statement, Sys2Proof.encode]
theorem bbEmit : Statement .bbEmit := by simp [Statement, Sys2Proof.encode]
theorem bbLoad (n : BitVec 32) : Statement (.bbLoad n) := by simp [Statement, Sys2Proof.encode]

end Sys2Proof.Laws.OpByte
end

