-- ==== Sys2Proof/Tests/Slice0.lean ====
section
/-! SUPPORT. Tests. Every expected value is the spec's: the vectors of spec/95_test_vectors.md are cited by their names (BB-1,
EN-3, ...), the encodings by R70 to R77. The theorems named `test_meets_...` show that the hypotheses of a statement can
be met together. -/

open Sys2Proof Sys2Proof.Machine

namespace Sys2Proof.Tests

-- One theorem at a time: checked in parallel, the kernel evaluations below fill the memory with waiting threads.
set_option Elab.async false

/-! ## Helpers -/

/-- Bytes written as numbers. -/
def bytes (l : List Nat) : List Byte := l.map (BitVec.ofNat 8)

/-- The symbols of an ASCII text. -/
def text (t : String) : List Sym := t.toList.map (fun c => BitVec.ofNat 8 c.toNat)

/-- Bits written as 0 and 1. -/
def bits (l : List Nat) : List Bool := l.map (fun n => n == 1)

/-- The engine of R250 with TERM = `$`, as `SET_TERM '$'` leaves it. -/
def freshEng : Engine := { Engine.reset with term := 0x24#8 }

/-- A machine with this engine and nothing on its streams. -/
def mk (e : Engine) : State := { State.reset with eng := e }

/-- A machine with this engine and these bytes on IN, then EOF. -/
def mkIn (e : Engine) (l : List Nat) : State := { mk e with inp := { units := bytes l, tail := .eof } }

/-- A machine with this engine and this text on SYMIN, then EOF. -/
def mkSym (e : Engine) (t : String) : State := { mk e with symIn := { units := text t, tail := .eof } }

/-- The state after a command; the state itself where the command stops. -/
def after (i : Instr) (s : State) : State :=
  match exec i s with
  | .next t => t
  | .fault _ => s
  | .refused _ => s

/-- Whether a command answers a next state. -/
def runs (i : Instr) (s : State) : Bool :=
  match exec i s with
  | .next _ => true
  | .fault _ => false
  | .refused _ => false

theorem exec_after {i : Instr} {s : State} (h : runs i s = true) : exec i s = .next (after i s) := by
  unfold runs at h
  unfold after
  split at h <;> simp_all

/-- The error state of an engine: ERRCODE's number, ERR_INFO0, ERR_INFO1 and ERR_OP, where ERR = 1. -/
def errorOf (s : State) : Option (Nat × Nat × Nat × Nat) :=
  if s.eng.err then some ((errNumber s.eng.errCode).toNat, s.eng.errInfo0.toNat, s.eng.errInfo1.toNat, s.eng.errOp.toNat)
  else none

/-- The counters IN_COUNT, OUT_COUNT, SYM_COUNT. -/
def counters (s : State) : Nat × Nat × Nat := (s.eng.inCount.toNat, s.eng.outCount.toNat, s.eng.symCount.toNat)

/-- The error state after a raw descriptor on the engine of R250. -/
def errorOfRaw (w : Nat) : Option (Nat × Nat × Nat × Nat) :=
  match step { mk freshEng with host := [.command (BitVec.ofNat 128 w)] } with
  | .next t => errorOf t
  | .fault _ => none
  | .refused _ => none

/-- The frequency table with these counts. -/
def freqOf (l : List (Nat × Nat)) : FreqTable :=
  l.foldl (fun f p => symPut f (BitVec.ofNat 8 p.1) (some (BitVec.ofNat 64 p.2))) emptyFreq

/-- The frequencies of codec K (spec/95): `a:5, b:2, c:1`, TERM = `$` absent. -/
def freqEngK : Engine := { freshEng with freq := freqOf [(0x61, 5), (0x62, 2), (0x63, 1)] }

/-- The code table of codec K, from TB-1: `$=111 a=0 b=10 c=110`. -/
def ctK : CodeTable :=
  codeTableOf [(0x24#8, bits [1, 1, 1]), (0x61#8, bits [0]), (0x62#8, bits [1, 0]), (0x63#8, bits [1, 1, 0])]

/-- A tree with those codes: leaves `$`, `a`, `b`, `c` at handles 0 to 3 and the root at 6. -/
def nodesK : List Node :=
  [.leaf 0x24#8, .leaf 0x61#8, .leaf 0x62#8, .leaf 0x63#8,
    .internal (some 3) (some 0), .internal (some 2) (some 4), .internal (some 1) (some 5)]

/-- Codec K. -/
def engK : Engine := { freshEng with nodes := nodesK, root := 6, ct := ctK, treeValid := true, synTerm := true, tblBytes := 20#64 }

/-! ## Ill-formed descriptors, one for each of R74's checks (CL-1 to CL-8, BB-8, CT-10, CT-11) -/

theorem test_unknownOp_not_wellFormed : wellFormed 0x7F#128 = false ∧ wellFormed 0x10007F#128 = false := by decide
theorem test_reserved_not_wellFormed : wellFormed 0x100#128 = false ∧ wellFormed 0x00000000000000050000000100610011#128 = false ∧
    wellFormed 0x100000130#128 = false ∧ wellFormed 0x00000000000000010000000000010041#128 = false := by decide
theorem test_symRange_not_wellFormed : wellFormed 0x1240003#128 = false ∧ wellFormed 0x1000023#128 = false := by decide
theorem test_ignored_bits_wellFormed : wellFormed 0x00000000000000030000000900550401#128 = true ∧
    wellFormed 0x00000000000000000000000500000002#128 = true := by decide
theorem test_CL1 : errorOfRaw 0x7F = some (8, 0x7F, 1, 0x7F) := by decide +kernel
theorem test_CL2 : errorOfRaw 0x10007F = some (8, 0x7F, 1, 0x7F) := by decide +kernel
theorem test_CL3 : errorOfRaw 0x100 = some (8, 0x00, 2, 0x00) := by decide +kernel
theorem test_CL4 : errorOfRaw 0x1240003 = some (8, 0x03, 3, 0x03) := by decide +kernel
theorem test_CL5 : errorOfRaw 0x00000000000000050000000100610011 = some (8, 0x11, 2, 0x11) := by decide +kernel
theorem test_CL6 : errorOfRaw 0x100000030 = some (9, 0x30, 0, 0x30) := by decide +kernel
theorem test_CL7 : errorOfRaw 0x100000130 = some (8, 0x30, 2, 0x30) := by decide +kernel
theorem test_CL8 : errorOfRaw 0x00000000000000010000000000010041 = some (8, 0x41, 2, 0x41) := by decide +kernel
theorem test_BB8 : errorOfRaw 0x00000000000000020000000000000041 = some (8, 0x41, 2, 0x41) := by decide +kernel
theorem test_CT10 : errorOfRaw 0x1000023 = some (8, 0x23, 3, 0x23) := by decide +kernel
theorem test_CT11 : errorOfRaw 0x101000023 = some (8, 0x23, 2, 0x23) := by decide +kernel

/-! ## Words written out from R70 and R73, one for each constructor -/

theorem test_word_nop : decodeTableWord 128 0x0 = some .nop := by decide
theorem test_word_reset : decodeTableWord 128 0x1 = some .reset := by decide
theorem test_word_errAck : decodeTableWord 128 0x2 = some .errAck := by decide
theorem test_word_setTerm : decodeTableWord 128 0x240003 = some (.setTerm 0x24#8) := by decide
theorem test_word_freqClear : decodeTableWord 128 0x10 = some .freqClear := by decide
theorem test_word_freqSet :
    decodeTableWord 128 0x80000000000000050000000000FF0011 = some (.freqSet 0xFF#8 0x8000000000000005#64) := by decide
theorem test_word_build : decodeTableWord 128 0x20 = some .build := by decide
theorem test_word_tableExport : decodeTableWord 128 0x21 = some .tableExport := by decide
theorem test_word_tableImport : decodeTableWord 128 0x8000000100000022 = some (.tableImport 0x80000001#32) := by decide
theorem test_word_ctRead : decodeTableWord 128 0x7A0023 = some (.ctRead 0x7A#8) := by decide
theorem test_word_encode : decodeTableWord 128 0x300000030 = some (.encode 3#32) := by decide
theorem test_word_decodeBb : decodeTableWord 128 0x31 = some .decodeBb := by decide
theorem test_word_decodeStream : decodeTableWord 128 0xFFFFFFFF00000032 = some (.decodeStream 0xFFFFFFFF#32) := by decide
theorem test_word_bbClear : decodeTableWord 128 0x40 = some .bbClear := by decide
theorem test_word_bbAppend : decodeTableWord 128 0x10000000000000041 = some (.bbAppend true) := by decide
theorem test_word_bbGet : decodeTableWord 128 0x200000042 = some (.bbGet 2#32) := by decide
theorem test_word_bbEmit : decodeTableWord 128 0x43 = some .bbEmit := by decide
theorem test_word_bbLoad : decodeTableWord 128 0x1000000044 = some (.bbLoad 16#32) := by decide

/-- R52 (a): the carrier bytes of `FREQ_SET 'a', 5` (R77), byte 0 being the OP byte. -/
theorem test_carrier_bytes :
    bytesOfDescriptor 0x00000000000000050000000000610011#128 = bytes [0x11, 0, 0x61, 0, 0, 0, 0, 0, 5, 0, 0, 0, 0, 0, 0, 0] := by
  decide
theorem test_carrier_short : decodeBytes (bytes [0x20]) = none := by decide
theorem test_withFetchWord_runs :
    step (State.reset.withFetchWord 128 0x10000000000000041) = exec (.bbAppend true) State.reset := by rfl

/-! ## Assembler and pseudo-commands (R77, R78, CL-11, CL-12) -/

theorem test_assemble_freqSet : assembleLine "FREQ_SET 'a', 5" = some 0x00000000000000050000000000610011#128 := by
  decide +kernel
theorem test_assemble_setTerm : assembleLine "SET_TERM '$' ;; the terminator" = some 0x240003#128 := by decide +kernel
theorem test_assemble_hex : assembleLine "BB_LOAD 0x10" = some 0x1000000044#128 := by decide +kernel
theorem test_pseudo_decodeBuf : expandPseudo (.decodeBuf 4#32) = [.bbLoad 4#32, .decodeBb] := by decide
theorem test_pseudo_huffFrom : expandPseudo (.huffFrom [(0x61#8, 5#64)]) = [.freqClear, .freqSet 0x61#8 5#64, .build] := by
  decide

/-! ## Control commands -/

/-- An engine in the state of BB-3: RANGE(3, 3) raised by BB_GET 3, bits `101`. -/
def engBB3 : Engine :=
  { freshEng with
    bb := bits [1, 0, 1], err := true, errCode := .range, errOp := 0x42#8, errInfo0 := 3#64, errInfo1 := 3#64
    result := 1#64 }

theorem test_nop_zeroes_counters : counters (after .nop (mk { freshEng with inCount := 4#64, symCount := 1#64 })) = (0, 0, 0) := by
  decide +kernel
theorem test_BB4_dropped :
    (after .bbClear (mk engBB3)).eng.status = 3#64 ∧ (after .bbClear (mk engBB3)).eng.bb = bits [1, 0, 1] := by decide +kernel
theorem test_BB5_errAck :
    (after .errAck (mk engBB3)).eng.status = 0#64 ∧ (after .errAck (mk engBB3)).eng.bb = bits [1, 0, 1] ∧
    errNumber (after .errAck (mk engBB3)).eng.errCode = 0#8 := by decide +kernel
theorem test_CL9_reset :
    (after .reset (mk engBB3)).eng.status = 0#64 ∧ (after .reset (mk engBB3)).eng.bb = [] := by decide +kernel
theorem test_reset_in_error_is_not_dropped : (after .reset (mk engBB3)).eng = Engine.reset := by rfl
theorem test_setTerm_clears_tree :
    (after (.setTerm 0x23#8) (mk engK)).eng.term = 0x23#8 ∧ (after (.setTerm 0x23#8) (mk engK)).eng.status = 0#64 ∧
    (after (.setTerm 0x23#8) (mk engK)).eng.nnodes = 0#64 := by decide +kernel

/-! ## Frequencies and BUILD -/

theorem test_freqSet_replaces :
    (after (.freqSet 0x61#8 9#64) (mk freqEngK)).eng.freqAt 0x61#8 = 9#64 ∧
    (after (.freqSet 0x61#8 9#64) (mk freqEngK)).eng.freqAt 0x62#8 = 2#64 := by decide +kernel
theorem test_freqSet_zero_is_present : (after (.freqSet 0x00#8 0#64) (mk freshEng)).eng.freqV 0x00#8 = true := by decide +kernel
theorem test_freqClear : (after .freqClear (mk freqEngK)).eng.freqV 0x61#8 = false := by decide +kernel

/-- BUILD on these counts, TERM = `$`. -/
def built (l : List (Nat × Nat)) : State := after .build (mk { freshEng with freq := freqOf l })

theorem test_TB1_tree : (built [(0x61, 5), (0x62, 2), (0x63, 1)]).eng.nodes = nodesK := by decide +kernel
theorem test_TB1_paths : derivePaths 7 nodesK 6 [] =
    [(0x61#8, bits [0]), (0x62#8, bits [1, 0]), (0x63#8, bits [1, 1, 0]), (0x24#8, bits [1, 1, 1])] := by decide
theorem test_TB6_sums_do_not_wrap :
    (huffmanTree [(0x24#8, BitVec.allOnes 64), (0x61#8, BitVec.allOnes 64), (0x62#8, BitVec.allOnes 64)]).1.nodes =
    [.leaf 0x24#8, .leaf 0x61#8, .leaf 0x62#8, .internal (some 0) (some 1), .internal (some 2) (some 3)] := by
  decide +kernel

/-! ## The code table -/

theorem test_CT7 : (after (.ctRead 0x63#8) (mk engK)).eng.bb = bits [1, 1, 0] ∧
    (after (.ctRead 0x63#8) (mk engK)).eng.result = 3#64 := by decide +kernel
theorem test_CT9 : errorOf (after (.ctRead 0x7A#8) (mk engK)) = some (1, 0x7A, 0, 0x23) := by decide +kernel

/-- TABLE_IMPORT of a text, all of it there, on the engine with TERM = `$`. -/
def imported (t : String) : State :=
  after (.tableImport (BitVec.ofNat 32 t.length))
    { mk freshEng with inp := { units := t.toList.map (fun c => BitVec.ofNat 8 c.toNat), tail := .eof } }

theorem test_IM4 : (imported "$:1;a:00").eng.nodes =
    [.internal (some 2) (some 1), .leaf 0x24#8, .internal (some 3) none, .leaf 0x61#8] := by decide +kernel
theorem test_IM10_through_leaf : errorOf (imported "a:0;b:01;$:1") = some (5, 4, 2, 0x22) := by decide +kernel

/-! ## The codec -/

theorem test_EN3 : (after (.encode 3#32) (mkSym engK "ab$")).out = bytes [0x5C] ∧
    counters (after (.encode 3#32) (mkSym engK "ab$")) = (0, 1, 3) := by decide +kernel
theorem test_EN10 : errorOf (after (.encode 2#32) (mkSym engK "ad")) = some (1, 0x64, 1, 0x30) ∧
    (after (.encode 2#32) (mkSym engK "ad")).eng.bb = bits [0] := by decide +kernel
theorem test_DB4 : (after .decodeBb (mk { engK with bb := bytesToBits (bytes [0x5B, 0x80]) })).symOut = text "abc" := by
  decide +kernel
theorem test_DB2 : errorOf (after .decodeBb (mk { engK with bb := bytesToBits (bytes [0x5B]) })) = some (3, 8, 8, 0x31) := by
  decide +kernel
theorem test_DS2 : (after (.decodeStream 3#32) (mkIn engK [0x5B, 0x80, 0xE0])).symOut = text "abc" ∧
    (after (.decodeStream 3#32) (mkIn engK [0x5B, 0x80, 0xE0])).inp.units = bytes [0xE0] := by decide +kernel
theorem test_DS4 : errorOf (after (.decodeStream 2#32) (mkIn engK [0x5B, 0x80])) = some (4, 2, 0x63, 0x32) ∧
    (after (.decodeStream 2#32) (mkIn engK [0x5B, 0x80])).inp.units = bytes [0x80] := by decide +kernel

/-! ## The bit buffer -/

theorem test_bbClear : (after .bbClear (mk { freshEng with bb := bits [1, 0, 1] })).eng.bb = [] := by decide +kernel
theorem test_bbAppend_last : (after (.bbAppend true) (mk { freshEng with bb := bits [1, 0] })).eng.bb = bits [1, 0, 1] := by
  decide +kernel
theorem test_BB2 : (after (.bbGet 2#32) (mk { freshEng with bb := bits [1, 0, 1] })).eng.result = 1#64 := by decide +kernel
theorem test_BB3 : errorOf (after (.bbGet 3#32) (mk { freshEng with bb := bits [1, 0, 1], result := 1#64 })) =
    some (7, 3, 3, 0x42) := by decide +kernel
theorem test_BB1_emit : (after .bbEmit (mk { freshEng with bb := bits [1, 0, 1] })).out = bytes [0xA0] := by decide +kernel
theorem test_BB6_emit : (after .bbEmit (mk { freshEng with bb := bits [1, 1, 1, 1, 1, 1, 1, 1, 0] })).out = bytes [0xFF, 0x00] := by
  decide +kernel
theorem test_BB9 : (after (.bbLoad 2#32) (mkIn freshEng [0x5B, 0x80])).eng.bb =
    bits [0, 1, 0, 1, 1, 0, 1, 1, 1, 0, 0, 0, 0, 0, 0, 0] := by decide +kernel
theorem test_BB10 : errorOf (after (.bbLoad 3#32) (mkIn freshEng [0x01])) = some (3, 3, 1, 0x44) := by decide +kernel

/-! ## The register port (R36) -/

theorem test_port : readReg engK 0x00 = 12#64 ∧ readReg engK 0x28 = 0x24#64 ∧ readReg engK 0x40 = 4#64 ∧
    readReg engK 0x50 = 6#64 ∧ readReg engK 0x78 = 8#64 ∧ readReg engK 0x04 = 0#64 ∧ readReg engK 0x90 = 0#64 := by decide +kernel

/-! ## A tree that meets R26: `$:0;a:1` (TB-2) -/

/-- The codes of TB-2. -/
def smallCt : CodeTable := codeTableOf [(0x24#8, [false]), (0x61#8, [true])]

/-- The engine of TB-2. -/
def smallEng : Engine :=
  { freshEng with
    nodes := [.leaf 0x24#8, .leaf 0x61#8, .internal (some 0) (some 1)], root := 2, ct := smallCt, treeValid := true
    synTerm := true, tblBytes := 7#64 }

theorem smallCt_entries : ctEntries smallCt = [(0x24#8, [false]), (0x61#8, [true])] := by decide +kernel

theorem smallCt_text : exportText smallCt = text "$:0;a:1" := by
  unfold exportText
  rw [smallCt_entries]
  decide

theorem test_CT2 : (after .tableExport (mk smallEng)).out = text "$:0;a:1" ∧
    (after .tableExport (mk smallEng)).eng.outCount = 7#64 := by
  have h : after .tableExport (mk smallEng) = (mk { smallEng with }).writeOut (exportText smallCt) := rfl
  rw [h, smallCt_text]
  decide

theorem smallEng_text : exportText (mk smallEng).eng.ct = text "$:0;a:1" := smallCt_text

theorem smallEng_leaf {h : Handle} {s : Sym} (hl : smallEng.nodes[h]? = some (.leaf s)) :
    (h = 0 ∧ s = 0x24#8) ∨ (h = 1 ∧ s = 0x61#8) := by
  rcases h with _ | _ | _ | h <;> simp [smallEng] at hl <;> simp [hl]

theorem smallEng_ctV (s : Sym) : smallEng.ctV s = true ↔ s = 0x24#8 ∨ s = 0x61#8 := by
  by_cases h1 : s = 0x61#8
  · subst h1; decide
  · by_cases h2 : s = 0x24#8
    · subst h2; decide
    · simp [Engine.ctV, smallEng, smallCt, codeTableOf, symGet_symPut_other _ _ (Ne.symm h1),
        symGet_symPut_other _ _ (Ne.symm h2), h1, h2]

theorem smallEng_codes : smallEng.ctPath 0x24#8 = [false] ∧ smallEng.ctPath 0x61#8 = [true] := by decide

theorem smallEng_walk {p : Path} {h : Handle} (hw : walkPath smallEng.nodes smallEng.root p = some h) :
    (p = [] ∧ h = 2) ∨ (p = [false] ∧ h = 0) ∨ (p = [true] ∧ h = 1) := by
  rcases p with _ | ⟨b, _ | ⟨b', p⟩⟩
  · simpa [walkPath, smallEng, eq_comm] using hw
  · cases b <;> simpa [walkPath, nextNode, childOf, smallEng, eq_comm] using hw
  · cases b <;> simp [walkPath, nextNode, childOf, smallEng] at hw

theorem smallEng_usable : smallEng.UsableTree where
  rootInternal := rfl
  pathEndsAtLeaf := by
    intro h s hl
    obtain ⟨rfl, rfl⟩ | ⟨rfl, rfl⟩ := smallEng_leaf hl
    · rw [smallEng_codes.1]; rfl
    · rw [smallEng_codes.2]; rfl
  codesAreLeaves := by
    intro s
    rw [smallEng_ctV]
    constructor
    · rintro (rfl | rfl)
      · exact ⟨0, rfl⟩
      · exact ⟨1, rfl⟩
    · rintro ⟨h, hl⟩
      exact (smallEng_leaf hl).imp And.right And.right
  leavesDiffer := by
    intro h h' s hl hl'
    obtain ⟨rfl, rfl⟩ | ⟨rfl, rfl⟩ := smallEng_leaf hl <;> simpa [eq_comm] using smallEng_leaf hl'
  prefixFree := by
    intro s s' hs hs' hne
    rw [smallEng_ctV] at hs hs'
    obtain rfl | rfl := hs <;> obtain rfl | rfl := hs' <;>
      simp_all [smallEng_codes.1, smallEng_codes.2, List.cons_prefix_cons]
  termHasCode := by decide
  pathLengths := by
    intro s hs
    rw [smallEng_ctV] at hs
    obtain rfl | rfl := hs <;> decide
  arenaBounded := by decide
  onePath := by
    intro h hh
    have hlt : h < 3 := hh
    rcases h with _ | _ | _ | h
    · exact ⟨[false], rfl, fun q hq => by simpa using smallEng_walk hq⟩
    · exact ⟨[true], rfl, fun q hq => by simpa using smallEng_walk hq⟩
    · exact ⟨[], rfl, fun q hq => by simpa using smallEng_walk hq⟩
    · exact absurd hlt (Nat.not_lt_of_le (Nat.le_add_left 3 h))
  linksAllocated := by
    intro h c l r hn hc
    rcases h with _ | _ | _ | h <;> simp [smallEng] at hn
    obtain ⟨rfl, rfl⟩ := hn
    obtain hc | hc := hc <;> simp at hc <;> subst hc <;> decide
  tblBytes := by
    show 7#64 = BitVec.ofNat 64 (exportText smallCt).length
    rw [smallCt_text]
    decide

theorem smallEng_full : smallEng.FullTree := by
  intro h l r hn
  rcases h with _ | _ | _ | h <;> simp [smallEng] at hn
  obtain ⟨rfl, rfl⟩ := hn
  exact ⟨rfl, rfl⟩

theorem smallEng_sound : smallEng.Sound where
  buffer := by simp [Engine.BufferBounded, smallEng, freshEng, Engine.reset]
  obuf := by simp [Engine.ObufBounded, smallEng, freshEng, Engine.reset]
  errors := by simp [Engine.ErrorRegisters, smallEng, freshEng, Engine.reset]
  cleared := fun h => by simp [smallEng] at h

/-! ## A tree that meets R26 and is not full: `$:1;a:00` (IM-4) -/

/-- The codes of IM-4. -/
def partCt : CodeTable := codeTableOf [(0x24#8, [true]), (0x61#8, [false, false])]

/-- The engine after IM-4: record 2 has no RIGHT child. -/
def partEng : Engine :=
  { freshEng with
    nodes := [.internal (some 2) (some 1), .leaf 0x24#8, .internal (some 3) none, .leaf 0x61#8], root := 0, ct := partCt
    treeValid := true, tblBytes := 8#64 }

theorem partCt_entries : ctEntries partCt = [(0x24#8, [true]), (0x61#8, [false, false])] := by decide +kernel

theorem partCt_text : exportText partCt = text "$:1;a:00" := by
  unfold exportText
  rw [partCt_entries]
  decide

theorem partEng_leaf {h : Handle} {s : Sym} (hl : partEng.nodes[h]? = some (.leaf s)) :
    (h = 1 ∧ s = 0x24#8) ∨ (h = 3 ∧ s = 0x61#8) := by
  rcases h with _ | _ | _ | _ | h <;> simp [partEng] at hl <;> simp [hl]

theorem partEng_ctV (s : Sym) : partEng.ctV s = true ↔ s = 0x24#8 ∨ s = 0x61#8 := by
  by_cases h1 : s = 0x61#8
  · subst h1; decide
  · by_cases h2 : s = 0x24#8
    · subst h2; decide
    · simp [Engine.ctV, partEng, partCt, codeTableOf, symGet_symPut_other _ _ (Ne.symm h1),
        symGet_symPut_other _ _ (Ne.symm h2), h1, h2]

theorem partEng_codes : partEng.ctPath 0x24#8 = [true] ∧ partEng.ctPath 0x61#8 = [false, false] := by decide

theorem partEng_walk {p : Path} {h : Handle} (hw : walkPath partEng.nodes partEng.root p = some h) :
    (p = [] ∧ h = 0) ∨ (p = [true] ∧ h = 1) ∨ (p = [false] ∧ h = 2) ∨ (p = [false, false] ∧ h = 3) := by
  rcases p with _ | ⟨b, _ | ⟨b', _ | ⟨b'', p⟩⟩⟩
  · exact .inl ⟨rfl, (Option.some.inj hw).symm⟩
  · cases b <;> simpa [walkPath, nextNode, childOf, partEng, eq_comm] using hw
  · cases b <;> cases b' <;> simp [walkPath, nextNode, childOf, partEng] at hw ⊢
    exact hw.symm
  · cases b <;> cases b' <;> cases b'' <;> simp [walkPath, nextNode, childOf, partEng] at hw

theorem partEng_usable : partEng.UsableTree where
  rootInternal := rfl
  pathEndsAtLeaf := by
    intro h s hl
    obtain ⟨rfl, rfl⟩ | ⟨rfl, rfl⟩ := partEng_leaf hl
    · rw [partEng_codes.1]; rfl
    · rw [partEng_codes.2]; rfl
  codesAreLeaves := by
    intro s
    rw [partEng_ctV]
    constructor
    · rintro (rfl | rfl)
      · exact ⟨1, rfl⟩
      · exact ⟨3, rfl⟩
    · rintro ⟨h, hl⟩
      exact (partEng_leaf hl).imp And.right And.right
  leavesDiffer := by
    intro h h' s hl hl'
    obtain ⟨rfl, rfl⟩ | ⟨rfl, rfl⟩ := partEng_leaf hl <;> simpa [eq_comm] using partEng_leaf hl'
  prefixFree := by
    intro s s' hs hs' hne
    rw [partEng_ctV] at hs hs'
    obtain rfl | rfl := hs <;> obtain rfl | rfl := hs' <;>
      simp_all [partEng_codes.1, partEng_codes.2, List.cons_prefix_cons]
  termHasCode := by decide
  pathLengths := by
    intro s hs
    rw [partEng_ctV] at hs
    obtain rfl | rfl := hs <;> decide
  arenaBounded := by decide
  onePath := by
    intro h hh
    have hlt : h < 4 := hh
    rcases h with _ | _ | _ | _ | h
    · exact ⟨[], rfl, fun q hq => by simpa using partEng_walk hq⟩
    · exact ⟨[true], rfl, fun q hq => by simpa using partEng_walk hq⟩
    · exact ⟨[false], rfl, fun q hq => by simpa using partEng_walk hq⟩
    · exact ⟨[false, false], rfl, fun q hq => by simpa using partEng_walk hq⟩
    · exact absurd hlt (Nat.not_lt_of_le (Nat.le_add_left 4 h))
  linksAllocated := by
    intro h c l r hn hc
    rcases h with _ | _ | _ | _ | h <;> simp [partEng] at hn
    all_goals
      obtain ⟨rfl, rfl⟩ := hn
      obtain hc | hc := hc <;> simp at hc <;> subst hc <;> decide
  tblBytes := by
    show 8#64 = BitVec.ofNat 64 (exportText partCt).length
    rw [partCt_text]
    decide

theorem partEng_data : partEng.DataText [0x61#8] := by
  unfold Engine.DataText
  decide

/-- The walk stands inside `a`'s path after one 0. -/
theorem partEng_inside : partEng.EndsInside [false] 2 := by constructor <;> rfl

theorem smallEng_inside : smallEng.EndsInside [] 2 := by constructor <;> rfl

theorem smallEng_data (k : Nat) : smallEng.DataText (List.replicate k 0x61#8) := by
  intro x hx
  rw [List.eq_of_mem_replicate hx]
  exact ⟨(smallEng_ctV _).2 (.inr rfl), by decide⟩

theorem smallEng_bits (k : Nat) : (List.replicate k (0x61#8 : Sym)).flatMap smallEng.ctPath = List.replicate k true := by
  induction k with
  | zero => rfl
  | succ k ih => rw [List.replicate_succ, List.flatMap_cons, ih, smallEng_codes.2]; rfl

theorem onesToBits (k : Nat) : bytesToBits (List.replicate k 0xFF#8) = List.replicate (8 * k) true := by
  induction k with
  | zero => rfl
  | succ k ih =>
    have h : byteBits 0xFF#8 = List.replicate 8 true := by decide
    show byteBits 0xFF#8 ++ bytesToBits (List.replicate k 0xFF#8) = _
    rw [ih, h, List.replicate_append_replicate]
    congr 1
    omega

/-- 4097 ones: 4096 times `a` and one more. -/
theorem tooManyBits : List.replicate 4097 true =
    (List.replicate 4096 (0x61#8 : Sym)).flatMap smallEng.ctPath ++ smallEng.ctPath 0x61#8 ++ [] := by
  rw [smallEng_bits, smallEng_codes.2, List.append_nil]
  exact (List.replicate_append_replicate (n := 4096) (m := 1)).symm

/-- The same in 513 bytes, seven bits of the last unread. -/
theorem tooManyBytes : bytesToBits (List.replicate 513 0xFF#8) =
    (List.replicate 4096 (0x61#8 : Sym)).flatMap smallEng.ctPath ++ smallEng.ctPath 0x61#8 ++ List.replicate 7 true := by
  rw [onesToBits, smallEng_bits, smallEng_codes.2]
  show List.replicate 4104 true = List.replicate 4096 true ++ List.replicate 1 true ++ List.replicate 7 true
  rw [List.replicate_append_replicate, List.replicate_append_replicate]

/-! ## The hypotheses of the statements can be met -/

theorem smallEng_present : symGet smallEng.ct 0x61#8 = some [true] ∧ symGet smallEng.ct 0x62#8 = none := by decide

/-! ### Encoding, steps and errors -/

theorem test_meets_EncodeOfDecode :
    decode 0x240003#128 = .ok (.setTerm 0x24#8) ∧ Instr.setTerm 0x24#8 ≠ .reset ∧ Instr.setTerm 0x24#8 ≠ .errAck := by decide
theorem test_meets_ValidExactlyWhenOneRowMatches :
    (decode 0x20#128 = .ok .build) ∧ (decode 0x7F#128 = .illegal .unknownOp) ∧
    (∃ r ∈ descriptorTable, r.matches 0x20#128 = true) := by decide
theorem test_meets_IllegalReasonsInOrder :
    knownOp 0x10007F#128 = false ∧ decode 0x1000011#128 = .illegal .symRange ∧
    decode 0xFF0003#128 = .ok (.setTerm 0xFF#8) ∧ decode 0x1000003#128 = .illegal .symRange := by decide
theorem test_meets_StepRunsDecodedCommand :
    ∃ (s : State) (d : Descriptor) (i : Instr) (rest : List HostAction),
      s.host = .command d :: rest ∧ decode d = .ok i :=
  ⟨{ mk smallEng with host := [.command 0x31#128] }, 0x31#128, .decodeBb, [], rfl, by decide⟩
theorem test_meets_IllegalDescriptorRaises :
    ∃ (s : State) (d : Descriptor) (r : IllegalReason) (rest : List HostAction),
      s.host = .command d :: rest ∧ decode d = .illegal r ∧ s.eng.err = false :=
  ⟨{ mk smallEng with host := [.command 0x131#128, .assertReset] }, 0x131#128, .reservedField, [.assertReset], rfl,
    by decide, rfl⟩
theorem test_meets_DroppedWhileError :
    ∃ (s : State) (d : Descriptor) (rest : List HostAction),
      s.host = .command d :: rest ∧ s.eng.err = true ∧ opField d ≠ 0x01#8 ∧ opField d ≠ 0x02#8 :=
  ⟨{ mk engBB3 with host := [.command 0x03#128] }, 0x03#128, [], rfl, rfl, by decide, by decide⟩
theorem test_meets_NoTreeError :
    ∃ (s : State) (i : Instr), s.eng.err = false ∧ s.eng.treeValid = false ∧
      (i = .tableExport ∨ (∃ x, i = .ctRead x) ∨ (∃ n, i = .encode n) ∨ i = .decodeBb ∨ (∃ n, i = .decodeStream n)) :=
  ⟨mk freshEng, .decodeStream 0#32, rfl, rfl, .inr (.inr (.inr (.inr ⟨_, rfl⟩)))⟩
theorem test_meets_HostMovesBetweenCommands :
    (mk smallEng).host = [] ∧
    (∃ (s : State) (rest : List HostAction), s.host = .supplyIn [0x01#8] .withheld :: rest) ∧
    (∃ (s : State) (rest : List HostAction), s.host = .supplySym [0x61#8] .eof :: rest) ∧
    (∃ (s : State) (rest : List HostAction), s.host = .consumeIn 1 :: rest) ∧
    (∃ (s : State) (rest : List HostAction), s.host = .readRegister 0x88 :: rest) :=
  ⟨rfl, ⟨{ mk smallEng with host := [.supplyIn [0x01#8] .withheld] }, [], rfl⟩,
    ⟨{ mk smallEng with host := [.supplySym [0x61#8] .eof] }, [], rfl⟩,
    ⟨{ mkIn smallEng [1] with host := [.consumeIn 1] }, [], rfl⟩, ⟨{ mk smallEng with host := [.readRegister 0x88] }, [], rfl⟩⟩
theorem test_meets_RegisterPort : (0x87 % 8 ≠ 0 ∨ 0x88 < 0x87) ∧ (0x90 % 8 ≠ 0 ∨ 0x88 < 0x90) := by decide

/-! ### Control commands and the frequency table -/

theorem test_meets_NopCommand :
    (mk smallEng).eng.err = false ∧ (mk engBB3).eng.err = true ∧ opField 0x100#128 = 0x00#8 ∧ (0x100#128 : Descriptor) ≠ 0#128 :=
  ⟨rfl, rfl, by decide, by decide⟩
theorem test_meets_ResetCommand :
    opField 0x00000000000000030000000900550401#128 = 0x01#8 ∧
    (∃ (s : State) (rest : List HostAction), s.host = .assertReset :: rest) :=
  ⟨by decide, { mk engBB3 with host := [.assertReset] }, [], rfl⟩
theorem test_meets_ErrAckCommand : opField 0x00000000000000000000000500000002#128 = 0x02#8 := by decide
theorem test_meets_SetTermCommand :
    (mk smallEng).eng.err = false ∧
    (opField 0x100000003#128 = 0x03#8 ∧ nField 0x100000003#128 ≠ 0#32) ∧
    (opField 0xFF0003#128 = 0x03#8 ∧ rsvField 0xFF0003#128 = 0#8 ∧ nField 0xFF0003#128 = 0#32 ∧ valField 0xFF0003#128 = 0#64) ∧
    (symField 0xFF0003#128).toNat = 255 ∧ 256 ≤ (symField 0x1000003#128).toNat :=
  ⟨rfl, by decide⟩
theorem test_meets_FreqClearCommand : (mk freqEngK).eng.err = false := rfl
theorem test_meets_FreqSetCommand :
    (mk freqEngK).eng.err = false ∧ (0x62#8 : Sym) ≠ 0x61#8 ∧
    (opField 0x100610011#128 = 0x11#8 ∧ nField 0x100610011#128 ≠ 0#32) ∧
    (opField 0xFF0011#128 = 0x11#8 ∧ rsvField 0xFF0011#128 = 0#8 ∧ nField 0xFF0011#128 = 0#32) ∧
    (opField 0x1000011#128 = 0x11#8 ∧ 256 ≤ (symField 0x1000011#128).toNat) :=
  ⟨rfl, by decide⟩

/-! ### The bit buffer -/

theorem test_meets_BbClearCommand : (mk smallEng).eng.err = false ∧ opField 0x140#128 = 0x40#8 := ⟨rfl, by decide⟩
theorem test_meets_BbAppendCommand :
    (∃ s : State, s.eng.err = false ∧ s.eng.bb.length = 524287) ∧
    (∃ s : State, s.eng.err = false ∧ s.eng.bb.length = 524288) ∧
    (opField 0x20000000000000041#128 = 0x41#8 ∧ 2 ≤ (valField 0x20000000000000041#128).toNat) :=
  ⟨⟨mk { freshEng with bb := List.replicate 524287 false }, rfl, List.length_replicate⟩,
    ⟨mk { freshEng with bb := List.replicate 524288 false }, rfl, List.length_replicate⟩, by decide⟩
theorem test_meets_BbGetCommand :
    (mk { freshEng with bb := bits [1, 0, 1] }).eng.err = false ∧ (bits [1, 0, 1])[(2#32).toNat]? = some true ∧
    (bits [1, 0, 1]).length ≤ (3#32).toNat := ⟨rfl, by decide⟩
theorem test_meets_BbEmitCommand :
    (mk { freshEng with bb := bits [1, 0, 1] }).eng.err = false ∧ opField 0x10000000000000043#128 = 0x43#8 := ⟨rfl, by decide⟩

/-- IN with `k` zero bytes. -/
def zeroBytes (k : Nat) (tail : StreamEnd) : State :=
  { mk freshEng with inp := { units := List.replicate k 0x00#8, tail := tail } }

theorem zeroBytes_short : (zeroBytes 65535 .eof).inp.units.length < (65536#32).toNat := by
  show (List.replicate 65535 0x00#8).length < 65536
  rw [List.length_replicate]
  decide

theorem test_meets_BbLoadCommand :
    (∃ (s : State) (n : BitVec 32), s.eng.err = false ∧ 8 * n.toNat ≤ 524288 ∧ n.toNat ≤ s.inp.units.length) ∧
    (∃ (s : State) (n : BitVec 32), s.eng.err = false ∧ 524288 < 8 * n.toNat) ∧
    (∃ (s : State) (n : BitVec 32), s.eng.err = false ∧ 8 * n.toNat ≤ 524288 ∧ s.inp.units.length < n.toNat ∧
      s.inp.tail = .eof) :=
  ⟨⟨zeroBytes 65536 .withheld, 65536#32, rfl, by decide, Nat.le_of_eq List.length_replicate.symm⟩, ⟨mk freshEng, 65537#32, rfl, by decide⟩,
    ⟨zeroBytes 65535 .eof, 65536#32, rfl, by decide, zeroBytes_short, rfl⟩⟩
theorem test_meets_StuckOnWithheldStream :
    (∃ (s : State) (n : BitVec 32), s.eng.err = false ∧ 8 * n.toNat ≤ 524288 ∧ s.inp.units.length < n.toNat ∧
      s.inp.tail = .withheld) ∧
    (∃ (s : State) (n : BitVec 32), s.eng.err = false ∧ s.eng.treeValid = true ∧ s.symIn.units.length < n.toNat ∧
      s.symIn.tail = .withheld ∧ (∀ x ∈ s.symIn.units, s.eng.ctV x = true) ∧
      (s.symIn.units.flatMap s.eng.ctPath).length ≤ 524288) ∧
    (∃ s : State, s.eng.err = false ∧ s.eng.treeValid = true ∧ s.inp.units = [] ∧ s.inp.tail = .withheld) :=
  ⟨⟨zeroBytes 1 .withheld, 2#32, rfl, by decide, by decide, rfl⟩,
    ⟨{ mk smallEng with symIn := { units := [0x61#8], tail := .withheld } }, 2#32, rfl, rfl, by decide, rfl, by decide,
      by decide⟩,
    ⟨{ mk smallEng with inp := { units := [], tail := .withheld } }, rfl, rfl, rfl, rfl⟩⟩
/-- Eight times `a`, and then no byte where TERM or another symbol must start. -/
theorem test_meets_StuckOnWithheldStream_midText :
    ∃ (s : State) (cap : BitVec 32) (txt : List Sym) (p : Path) (h : Handle), s.eng.err = false ∧ s.eng.treeValid = true ∧
      s.eng.UsableTree ∧ s.eng.DataText txt ∧ txt ≠ [] ∧ txt.length ≤ 4096 ∧ txt.length ≤ cap.toNat ∧
      s.eng.EndsInside p h ∧ bytesToBits s.inp.units = txt.flatMap s.eng.ctPath ++ p ∧ s.inp.tail = .withheld :=
  ⟨{ mk smallEng with inp := { units := [0xFF#8], tail := .withheld } }, 8#32, List.replicate 8 0x61#8, [], 2, rfl, rfl,
    smallEng_usable, smallEng_data 8, by decide, by decide, by decide, smallEng_inside, by decide, rfl⟩
theorem test_meets_LoadThenEmitWritesBack :
    ∃ (s t : State) (n : BitVec 32), s.eng.err = false ∧ 8 * n.toNat ≤ 524288 ∧ n.toNat ≤ s.inp.units.length ∧
      exec (.bbLoad n) s = .next t :=
  ⟨mkIn freshEng [0x5B, 0x80], _, 2#32, rfl, by decide, by decide, exec_after (by decide +kernel)⟩
theorem test_meets_PackedBitsMsbFirst : 0 < (packBytes [true]).length ∧ 7 < 8 := by decide

/-! ### BUILD -/

theorem test_meets_BuildEmptyAlphabet :
    ∃ s : State, s.eng.err = false ∧ (∀ x : Sym, x ≠ s.eng.term → s.eng.freqV x = false) ∧ s.eng.freqV s.eng.term = true :=
  ⟨mk { freshEng with freq := symPut emptyFreq 0x24#8 (some 3#64) }, rfl,
    fun x hx => by
      have h : (0x24#8 : Sym) ≠ x := fun e => hx e.symm
      show (symGet (symPut emptyFreq 0x24#8 (some 3#64)) x).isSome = false
      rw [symGet_symPut_other _ _ h, symGet_emptyFreq]
      rfl, by decide⟩
theorem test_meets_BuildCompletes :
    ∃ (s : State) (x : Sym), s.eng.err = false ∧ x ≠ s.eng.term ∧ s.eng.freqV x = true :=
  ⟨mk freqEngK, 0x61#8, rfl, by decide, by decide⟩

/-- TB-2's frequencies: one data symbol. -/
def freqEng2 : Engine := { freshEng with freq := freqOf [(0x61, 1)] }

theorem freqEng2_builds : exec .build (mk freqEng2) = .next (after .build (mk freqEng2)) := exec_after (by decide +kernel)
theorem freqEng2_ok : (after .build (mk freqEng2)).eng.err = false := by decide +kernel
theorem test_meets_built :
    ∃ (s t : State), s.eng.err = false ∧ exec .build s = .next t ∧ t.eng.err = false :=
  ⟨mk freqEng2, _, rfl, freqEng2_builds, freqEng2_ok⟩
theorem test_meets_LeastNodeExtracted : ([⟨5#72, 1⟩, ⟨5#72, 0⟩] : List QItem) ≠ [] := by decide
theorem test_meets_LeastNodeExtracted_built :
    (after .build (mk freqEng2)).eng.nodes = [.leaf 0x24#8, .leaf 0x61#8, .internal (some 0) (some 1)] := by decide +kernel
theorem test_meets_LeastNodeExtracted_queued :
    Queued [.leaf 0x24#8, .leaf 0x61#8, .internal (some 0) (some 1)] 2 1 := by
  refine ⟨by decide, fun g l r hg hn => ?_⟩
  rcases g with _ | _ | g
  · simp at hn
  · simp at hn
  · exact absurd hg (Nat.not_lt_of_le (Nat.le_add_left 2 g))
theorem test_meets_BuildDependsOnFrequenciesAndTerm :
    ∃ (s s' t t' : State), s.eng.err = false ∧ s'.eng.err = false ∧ s.eng.freq = s'.eng.freq ∧ s.eng.term = s'.eng.term ∧
      s ≠ s' ∧ exec .build s = .next t ∧ exec .build s' = .next t' ∧ t.eng.err = false :=
  ⟨mk freqEng2, { mk freqEng2 with out := [0x00#8] }, _, _, rfl, rfl, rfl, rfl,
    fun h => by simpa [mk, State.reset] using congrArg State.out h, freqEng2_builds, exec_after (by decide +kernel), freqEng2_ok⟩

/-! ### The code table -/

theorem test_meets_TableExportCommand : ∃ s : State, s.eng.err = false ∧ s.eng.treeValid = true ∧ s.eng.UsableTree :=
  ⟨mk smallEng, rfl, rfl, smallEng_usable⟩
theorem test_meets_CtReadCommand :
    (∃ (s : State) (x : Sym) (p : Path), s.eng.err = false ∧ s.eng.treeValid = true ∧ symGet s.eng.ct x = some p) ∧
    (∃ (s : State) (x : Sym), s.eng.err = false ∧ s.eng.treeValid = true ∧ symGet s.eng.ct x = none) :=
  ⟨⟨mk smallEng, 0x61#8, [true], rfl, rfl, smallEng_present.1⟩, ⟨mk smallEng, 0x62#8, rfl, rfl, smallEng_present.2⟩⟩

/-- IM-2's kind of table: an incomplete tree, entries not in order, a trailing separator. -/
def someEntries : List (Sym × Path) := [(0x61#8, [false, false]), (0x24#8, [true])]

theorem test_meets_ImportAcceptsPrefixFreeTable :
    ∃ (s : State) (n : BitVec 32) (rest : List Byte),
      let t := joinEntries (someEntries.map entryText) ++ [0x3B#8]
      s.eng.err = false ∧ s.inp.units = t ++ rest ∧ n.toNat = t.length ∧ 8 * t.length ≤ 524288 ∧
      (someEntries.map Prod.fst).Nodup ∧ someEntries.Pairwise (fun a b => ¬ a.2 <+: b.2 ∧ ¬ b.2 <+: a.2) ∧
      (∀ a ∈ someEntries, 1 ≤ a.2.length ∧ a.2.length ≤ 255) ∧
      (someEntries.flatMap (fun a => a.2.inits)).dedup.length ≤ 511 ∧ (∃ p, (s.eng.term, p) ∈ someEntries) :=
  ⟨{ mk freshEng with inp := { units := text "a:00;$:1;!", tail := .withheld } }, 9#32, text "!", rfl, by decide, by decide,
    by decide, by decide, by decide, by decide, by decide, [true], by decide⟩
theorem someEntries_importable : Importable someEntries := by constructor <;> decide

theorem test_meets_ImportRejectsConflict :
    Importable someEntries ∧ (0x3B#8 ≠ (0x30#8 : Byte) ∧ 0x3B#8 ≠ (0x31#8 : Byte)) ∧
    (0x61#8 ∈ someEntries.map Prod.fst) ∧ (0x62#8 ∉ someEntries.map Prod.fst) ∧
    (∃ a ∈ someEntries, a.2 <+: [true, false] ∧ a.2 ≠ [true, false]) ∧ (∃ a ∈ someEntries, a.2 = [true]) ∧
    (∃ a ∈ someEntries, [false] <+: a.2 ∧ a.2 ≠ [false]) := ⟨someEntries_importable, by decide⟩

/-- IM-12 and IM-13 end at the second entry's CHAR, before their last entries. -/
theorem test_IM12_midText : importText 0x24#8 (text "a:0;b:0;$:1") = .error (.corrupt 4 .duplicatePath) := by decide +kernel
theorem test_IM13_midText : importText 0x24#8 (text "a:0;a:10;$:11") = .error (.corrupt 4 .duplicateSymbol) := by
  decide +kernel

/-- IM-4's handles, by R156: root 0, `1` 1, `0` 2, `00` 3. -/
theorem test_IM4_order : prefixOrder [(0x24#8, [true]), (0x61#8, [false, false])] = [[], [true], [false], [false, false]] := by
  decide

theorem test_meets_ImportRejectsConflict_syntax :
    Importable [] ∧ Importable someEntries ∧ Importable (someEntries ++ [(0x62#8, [false, true])]) ∧
    (0x2F#8 : Byte) ≠ 0x30#8 ∧ (0x2F#8 : Byte) ≠ 0x31#8 ∧ (0x2F#8 : Byte) ≠ 0x3B#8 ∧ (0x2F#8 : Byte) ≠ 0x3A#8 ∧
    (List.replicate 256 true).length = 256 :=
  ⟨by constructor <;> simp, someEntries_importable, by constructor <;> decide, by decide, by decide, by decide, by decide,
    List.length_replicate⟩
theorem test_meets_ImportRejectsConflict_noTerminator :
    Importable someEntries ∧ someEntries ≠ [] ∧ 0x23#8 ∉ someEntries.map Prod.fst := ⟨someEntries_importable, by decide⟩

/-- Two entries whose paths take 511 records with the root. -/
def fullEntries : List (Sym × Path) := [(0x61#8, List.replicate 255 false), (0x62#8, List.replicate 255 true)]

theorem inits_replicate (b : Bool) (k : Nat) :
    (List.replicate k b).inits = (List.range (k + 1)).map (fun n => List.replicate n b) := by
  induction k with
  | zero => rfl
  | succ k ih =>
    rw [List.replicate_succ, List.inits_cons, ih, List.range_succ_eq_map (n := k + 1), List.map_cons, List.map_map,
      List.map_map]
    rfl

/-- The paths of zeros, of no bit to 255 bits. -/
def zeroPaths : List Path := (List.range 256).map (fun n => List.replicate n false)

/-- The paths of ones, of one bit to 255 bits. -/
def onePaths : List Path := (List.range 255).map (fun n => List.replicate (n + 1) true)

theorem fullEntries_paths : fullEntries.flatMap (fun a => a.2.inits) = zeroPaths ++ [] :: onePaths := by
  have h0 : (List.replicate 255 false).inits = zeroPaths := inits_replicate false 255
  have h1 : (List.replicate 255 true).inits = [] :: onePaths := by
    rw [inits_replicate, List.range_succ_eq_map, List.map_cons, List.map_map]
    rfl
  show (List.replicate 255 false).inits ++ ((List.replicate 255 true).inits ++ []) = _
  rw [h0, h1, List.append_nil]

theorem paths_nodup : (zeroPaths ++ onePaths).Nodup := by
  refine List.nodup_append.2 ⟨List.Nodup.map (fun a b h => by simpa using congrArg List.length h) List.nodup_range,
    List.Nodup.map (fun a b h => by simpa using congrArg List.length h) List.nodup_range, ?_⟩
  intro p hp q hq e
  obtain ⟨n, _, rfl⟩ := List.mem_map.1 hp
  obtain ⟨m, _, rfl⟩ := List.mem_map.1 hq
  have ht : true ∈ List.replicate n false := by
    rw [e]
    exact List.mem_replicate.2 ⟨Nat.succ_ne_zero m, rfl⟩
  exact absurd (List.eq_of_mem_replicate ht) (by decide)

theorem paths_length : (zeroPaths ++ onePaths).length = 511 := by
  rw [List.length_append, zeroPaths, onePaths, List.length_map, List.length_map, List.length_range, List.length_range]

theorem forked_notMem : [false, true] ∉ zeroPaths ++ onePaths := by
  rw [List.mem_append, zeroPaths, onePaths, List.mem_map, List.mem_map]
  rintro (⟨n, _, h⟩ | ⟨n, _, h⟩)
  · exact absurd (List.eq_of_mem_replicate (h ▸ (by decide : true ∈ [false, true]) : true ∈ List.replicate n false)) (by decide)
  · exact absurd (List.eq_of_mem_replicate (h ▸ (by decide : false ∈ [false, true]) : false ∈ List.replicate (n + 1) true))
      (by decide)

/-- IM-26's and IM-27's bound: the first two entries fill the arena to 511 records, and a third needs a 512th. -/
theorem test_meets_ImportRejectsConflict_arena :
    Importable fullEntries ∧ 0x24#8 ∉ fullEntries.map Prod.fst ∧
    (∀ a ∈ fullEntries, ¬ a.2 <+: [false, true] ∧ ¬ [false, true] <+: a.2) ∧
    511 < ((fullEntries ++ [(0x24#8, [false, true])]).flatMap (fun a => a.2.inits)).dedup.length := by
  refine ⟨⟨by decide, ?_, ?_, ?_⟩, by decide, ?_, ?_⟩
  · refine List.pairwise_pair.2 ⟨fun h => ?_, fun h => ?_⟩
    · exact absurd (List.IsPrefix.eq_of_length h (by rw [List.length_replicate, List.length_replicate])) (by decide)
    · exact absurd (List.IsPrefix.eq_of_length h (by rw [List.length_replicate, List.length_replicate])) (by decide)
  · intro a ha
    have hlen : a.2.length = 255 := by
      rcases List.mem_pair.1 ha with rfl | rfl
      · exact List.length_replicate
      · exact List.length_replicate
    omega
  · rw [fullEntries_paths, ← paths_length]
    refine (List.Subperm.length_le (List.subperm_of_subset (List.nodup_dedup _) fun p hp => ?_))
    have hnil : [] ∈ zeroPaths := List.mem_map.2 ⟨0, List.mem_range.2 (by decide), rfl⟩
    rcases List.mem_append.1 (List.mem_dedup.1 hp) with h | h
    · exact List.mem_append_left _ h
    · rcases List.mem_cons.1 h with rfl | h
      · exact List.mem_append_left _ hnil
      · exact List.mem_append_right _ h
  · decide
  · have hlen : ([false, true] :: (zeroPaths ++ onePaths)).length = 512 := by rw [List.length_cons, paths_length]
    rw [List.flatMap_append, fullEntries_paths]
    refine Nat.lt_of_succ_le (Nat.le_trans (Nat.le_of_eq hlen.symm) (List.Subperm.length_le
      (List.subperm_of_subset (List.nodup_cons.2 ⟨forked_notMem, paths_nodup⟩) fun p hp => List.mem_dedup.2 ?_)))
    rcases List.mem_cons.1 hp with rfl | hp
    · exact List.mem_append_right _ (List.mem_append_left _ ((List.mem_inits _ _).2 (List.prefix_refl _)))
    · refine List.mem_append_left _ (List.mem_append.2 ((List.mem_append.1 hp).imp id (List.mem_cons_of_mem _)))
theorem test_meets_ImportStagingErrors :
    (∃ (s : State) (n : BitVec 32), s.eng.err = false ∧ 524288 < 8 * n.toNat) ∧
    (∃ (s : State) (n : BitVec 32), s.eng.err = false ∧ 8 * n.toNat ≤ 524288 ∧ s.inp.units.length < n.toNat ∧
      s.inp.tail = .eof) :=
  ⟨⟨mk smallEng, 65537#32, rfl, by decide⟩, ⟨zeroBytes 65535 .eof, 65536#32, rfl, by decide, zeroBytes_short, rfl⟩⟩
theorem test_meets_FailedImportLeavesNoTree :
    ∃ (s : State) (n : BitVec 32) (stop : ImportStop), s.eng.err = false ∧ 8 * n.toNat ≤ 524288 ∧
      n.toNat ≤ s.inp.units.length ∧ importText s.eng.term (s.inp.units.take n.toNat) = .error stop :=
  ⟨mkIn smallEng [0x61], 1#32, .corrupt 1 .badText, rfl, by decide, by decide, rfl⟩
theorem test_meets_OneEntryImportLeavesOneLeaf :
    ∃ (s : State) (n : BitVec 32) (p : Path) (rest : List Byte),
      let t := entryText (s.eng.term, p) ++ [0x3B#8]
      s.eng.err = false ∧ 1 ≤ p.length ∧ p.length ≤ 255 ∧ n.toNat = t.length ∧ s.inp.units = t ++ rest :=
  ⟨mkIn freshEng [0x24, 0x3A, 0x30, 0x3B, 0xFF], 4#32, [false], [0xFF#8], rfl, by decide, by decide, by decide, by decide⟩
theorem test_one_entry_is_taken : (importText 0x24#8 (text "$:0")).map Rebuild.nodes =
    .ok [.internal (some 1) none, .leaf 0x24#8] := by decide +kernel
theorem test_meets_ExportThenImportGivesSameTable :
    ∃ (s s' : State) (n : BitVec 32) (rest : List Byte),
      s.eng.treeValid = true ∧ s.eng.UsableTree ∧ s'.eng.err = false ∧ s'.eng.term = s.eng.term ∧
      s'.inp.units = exportText s.eng.ct ++ rest ∧ n.toNat = (exportText s.eng.ct).length ∧
      8 * (exportText s.eng.ct).length ≤ 524288 :=
  ⟨mk smallEng, { mk freshEng with inp := { units := text "$:0;a:1", tail := .eof } }, 7#32, [], rfl, smallEng_usable, rfl, rfl,
    by rw [smallEng_text]; rfl, by rw [smallEng_text]; rfl, by rw [smallEng_text]; decide⟩

/-! ### The codec -/

theorem test_meets_EncodeCompletes :
    ∃ (s : State) (n : BitVec 32), s.eng.err = false ∧ s.eng.treeValid = true ∧ n.toNat ≤ s.symIn.units.length ∧
      (∀ x ∈ s.symIn.units.take n.toNat, s.eng.ctV x = true) ∧
      ((s.symIn.units.take n.toNat ++ [s.eng.term]).flatMap s.eng.ctPath).length ≤ 524288 :=
  ⟨mkSym smallEng "a$", 1#32, rfl, rfl, by decide, by decide, by decide⟩

/-- EN-13's text: 174762 times `c`, whose code has three bits, 524286 bits in all. -/
def longText : State := { mk engK with symIn := { units := List.replicate 174762 0x63#8, tail := .eof } }

theorem longText_bits (k : Nat) : ((List.replicate k (0x63#8 : Sym)).flatMap engK.ctPath).length = 3 * k := by
  have h : engK.ctPath 0x63#8 = [true, true, false] := by decide +kernel
  induction k with
  | zero => rfl
  | succ k ih => simp [List.replicate_succ, h, ih]; omega

theorem test_meets_EncodeErrors_noCode :
    ∃ (s : State) (n : BitVec 32) (done : List Sym) (x : Sym) (more : List Sym), s.eng.err = false ∧ s.eng.treeValid = true ∧
      s.symIn.units = done ++ x :: more ∧ done.length < n.toNat ∧ (∀ y ∈ done, s.eng.ctV y = true) ∧
      (done.flatMap s.eng.ctPath).length ≤ 524288 ∧ s.eng.ctV x = false :=
  ⟨mkSym smallEng "ad", 2#32, [0x61#8], 0x64#8, [], rfl, rfl, rfl, by decide, by decide, by decide, by decide⟩
theorem test_meets_EncodeErrors_full :
    ∃ (s : State) (n : BitVec 32) (done : List Sym) (x : Sym) (more : List Sym), s.eng.err = false ∧ s.eng.treeValid = true ∧
      s.symIn.units = done ++ x :: more ∧ done.length < n.toNat ∧ (∀ y ∈ done, s.eng.ctV y = true) ∧
      (done.flatMap s.eng.ctPath).length ≤ 524288 ∧ s.eng.ctV x = true ∧
      524288 < ((done ++ [x]).flatMap s.eng.ctPath).length := by
  have hc : engK.ctV 0x63#8 = true := by decide +kernel
  refine ⟨{ mk engK with symIn := { units := List.replicate 174762 0x63#8 ++ [0x63#8], tail := .eof } }, 174763#32,
    List.replicate 174762 0x63#8, 0x63#8, [], rfl, rfl, rfl, ?_, ?_, ?_, hc, ?_⟩
  · rw [List.length_replicate]
    decide
  · intro y hy
    rw [List.eq_of_mem_replicate hy]
    exact hc
  · exact le_of_eq_of_le (longText_bits 174762) (by decide)
  · rw [← List.replicate_succ']
    exact lt_of_lt_of_eq (by decide : 524288 < 3 * (174762 + 1)) (longText_bits (174762 + 1)).symm
theorem test_meets_EncodeErrors_short :
    ∃ (s : State) (n : BitVec 32), s.eng.err = false ∧ s.eng.treeValid = true ∧ s.symIn.units.length < n.toNat ∧
      s.symIn.tail = .eof ∧ (∀ y ∈ s.symIn.units, s.eng.ctV y = true) ∧
      (s.symIn.units.flatMap s.eng.ctPath).length ≤ 524288 :=
  ⟨mkSym smallEng "a", 2#32, rfl, rfl, by decide, rfl, by decide, by decide⟩
theorem test_meets_EncodeErrors_terminator :
    ∃ (s : State) (n : BitVec 32), s.eng.err = false ∧ s.eng.treeValid = true ∧ n.toNat ≤ s.symIn.units.length ∧
      (∀ y ∈ s.symIn.units.take n.toNat, s.eng.ctV y = true) ∧
      (s.symIn.units.take n.toNat).getLast? ≠ some s.eng.term ∧
      ((s.symIn.units.take n.toNat).flatMap s.eng.ctPath).length ≤ 524288 ∧
      524288 < ((s.symIn.units.take n.toNat ++ [s.eng.term]).flatMap s.eng.ctPath).length := by
  have hc : engK.ctV 0x63#8 = true := by decide +kernel
  have ht : (engK.ctPath engK.term).length = 3 := by decide +kernel
  have htake : longText.symIn.units.take (174762#32).toNat = List.replicate 174762 0x63#8 :=
    List.take_of_length_le (Nat.le_of_eq List.length_replicate)
  refine ⟨longText, 174762#32, rfl, rfl, Nat.le_of_eq List.length_replicate.symm, ?_, ?_, ?_, ?_⟩
  · rw [htake]
    intro y hy
    rw [List.eq_of_mem_replicate hy]
    exact hc
  · rw [htake, List.getLast?_replicate]
    decide
  · rw [htake]
    exact le_of_eq_of_le (longText_bits 174762) (by decide)
  · rw [htake, List.flatMap_append, List.length_append]
    have h1 := longText_bits 174762
    have h2 : ([longText.eng.term].flatMap longText.eng.ctPath).length = 3 := by
      rw [List.flatMap_singleton]
      exact ht
    rw [h2]
    exact lt_of_lt_of_eq (by decide : 524288 < 3 * 174762 + 3) (congrArg (· + 3) h1.symm)
theorem test_meets_DecodeBbCompletes :
    ∃ (s : State) (txt : List Sym) (rest : List Bool), s.eng.err = false ∧ s.eng.treeValid = true ∧ s.eng.UsableTree ∧
      (∀ x ∈ txt, s.eng.ctV x = true ∧ x ≠ s.eng.term) ∧ txt.length ≤ 4096 ∧
      s.eng.bb = txt.flatMap s.eng.ctPath ++ s.eng.ctPath s.eng.term ++ rest :=
  ⟨mk { smallEng with bb := [true, false, true] }, [0x61#8], [true], rfl, rfl,
    { smallEng_usable with }, by decide, by decide, by decide⟩
theorem test_meets_DecodeStreamCompletes :
    ∃ (s : State) (cap : BitVec 32) (txt : List Sym) (term rest : List Byte) (padding : List Bool), s.eng.err = false ∧
      s.eng.treeValid = true ∧ s.eng.UsableTree ∧ (∀ x ∈ txt, s.eng.ctV x = true ∧ x ≠ s.eng.term) ∧ txt.length ≤ 4096 ∧
      txt.length ≤ cap.toNat ∧ padding.length < 8 ∧
      bytesToBits term = txt.flatMap s.eng.ctPath ++ s.eng.ctPath s.eng.term ++ padding ∧ s.inp.units = term ++ rest :=
  ⟨mkIn smallEng [0xBF, 0xAA], 1#32, [0x61#8], [0xBF#8], [0xAA#8], bits [1, 1, 1, 1, 1, 1], rfl, rfl, smallEng_usable, by decide,
    by decide, by decide, by decide, by decide, rfl⟩
theorem test_meets_EncodeThenDecodeGivesText :
    ∃ (s t : State) (n cap : BitVec 32) (text0 : List Sym), s.eng.err = false ∧ s.eng.treeValid = true ∧ s.eng.UsableTree ∧
      n.toNat ≤ s.symIn.units.length ∧ s.symIn.units.take n.toNat = text0 ++ [s.eng.term] ∧ s.eng.term ∉ text0 ∧
      text0.length ≤ cap.toNat ∧ text0.length ≤ 4096 ∧ exec (.encode n) s = .next t ∧ t.eng.err = false :=
  ⟨mkSym smallEng "a$", _, 2#32, 1#32, [0x61#8], rfl, rfl, smallEng_usable, by decide, by decide, by decide, by decide, by decide,
    exec_after (by decide +kernel), by decide +kernel⟩
theorem test_meets_EncodeThenDecodeGivesText_noTerm :
    ∃ (s t : State) (n cap : BitVec 32) (text0 : List Sym), s.eng.err = false ∧ s.eng.treeValid = true ∧ s.eng.UsableTree ∧
      n.toNat ≤ s.symIn.units.length ∧ s.symIn.units.take n.toNat = text0 ∧ s.eng.term ∉ text0 ∧
      text0.length ≤ cap.toNat ∧ text0.length ≤ 4096 ∧ exec (.encode n) s = .next t ∧ t.eng.err = false :=
  ⟨mkSym smallEng "aa", _, 2#32, 2#32, [0x61#8, 0x61#8], rfl, rfl, smallEng_usable, by decide, by decide, by decide, by decide,
    by decide, exec_after (by decide +kernel), by decide +kernel⟩
theorem test_meets_OneWalkForBothDecoders :
    walkBits (walkEnv smallEng none) (Walk.start 2) [true, false] = .returned ⟨0, 2, [0x61#8]⟩ := by decide
theorem test_meets_NoOverRead :
    walkBytes (walkEnv smallEng none) (Walk.start 2) [] = (.running ⟨2, 0, []⟩, 0) ∧
    walkBytes (walkEnv smallEng none) (Walk.start 2) [0xBF#8, 0x00#8] = (.returned ⟨0, 2, [0x61#8]⟩, 1) ∧
    walkBytes (walkEnv smallEng (some 0)) (Walk.start 2) [0x80#8] =
      (.failed ⟨1, 1, []⟩ .capacity 0#64 0x61#64, 1) := by decide

theorem test_meets_NoOverRead_exec :
    ∃ (s t : State) (cap : BitVec 32), s.eng.err = false ∧ s.eng.treeValid = true ∧ exec (.decodeStream cap) s = .next t :=
  ⟨mkIn partEng [0x40, 0x00], _, 9#32, rfl, rfl, exec_after (by decide +kernel)⟩

/-- A buffer without the terminator: DECODE_BB raises TRUNCATION. -/
def cutState : State := mk { smallEng with bb := [true] }

theorem cutState_decodes : exec .decodeBb cutState = .next (after .decodeBb cutState) := exec_after (by decide +kernel)
theorem cutState_raises : (after .decodeBb cutState).eng.err = true := by decide +kernel
theorem test_meets_DecodeReleasesOnSuccessOnly :
    (∃ s t : State, s.eng.err = false ∧ exec .decodeBb s = .next t ∧ t.eng.err = true) ∧
    (∃ s t : State, s.eng.err = false ∧ exec (.decodeStream 1#32) s = .next t ∧ t.eng.err = false) :=
  ⟨⟨cutState, _, rfl, cutState_decodes, cutState_raises⟩,
    ⟨mkIn smallEng [0xBF], _, rfl, exec_after (by decide +kernel), by decide +kernel⟩⟩
theorem test_meets_DecodeReleases_bbTruncation :
    ∃ (s : State) (txt : List Sym) (p : Path) (h : Handle), s.eng.err = false ∧ s.eng.treeValid = true ∧ s.eng.UsableTree ∧
      s.eng.DataText txt ∧ txt.length ≤ 4096 ∧ s.eng.EndsInside p h ∧ s.eng.bb = txt.flatMap s.eng.ctPath ++ p :=
  ⟨mk { partEng with bb := [false, false, false] }, [0x61#8], [false], 2, rfl, rfl, { partEng_usable with }, partEng_data,
    by decide, partEng_inside, by decide⟩
theorem test_meets_DecodeReleases_bbMalformed :
    ∃ (s : State) (txt : List Sym) (p : Path) (h : Handle) (b : Bool) (rest : List Bool), s.eng.err = false ∧
      s.eng.treeValid = true ∧ s.eng.UsableTree ∧ s.eng.DataText txt ∧ txt.length ≤ 4096 ∧ s.eng.EndsInside p h ∧
      nextNode s.eng.nodes h b = none ∧ s.eng.bb = txt.flatMap s.eng.ctPath ++ p ++ b :: rest :=
  ⟨mk { partEng with bb := [false, false, false, true, false] }, [0x61#8], [false], 2, true, [false], rfl, rfl,
    { partEng_usable with }, partEng_data, by decide, partEng_inside, rfl, by decide⟩
theorem test_meets_DecodeReleases_bbResource :
    ∃ (s : State) (txt : List Sym) (x : Sym) (rest : List Bool), s.eng.err = false ∧ s.eng.treeValid = true ∧
      s.eng.UsableTree ∧ s.eng.DataText txt ∧ txt.length ≤ 4096 ∧ s.eng.ctV x = true ∧ x ≠ s.eng.term ∧
      s.eng.bb = txt.flatMap s.eng.ctPath ++ s.eng.ctPath x ++ rest ∧ txt.length = 4096 :=
  ⟨mk { smallEng with bb := List.replicate 4097 true }, List.replicate 4096 0x61#8, 0x61#8, [], rfl, rfl,
    { smallEng_usable with }, smallEng_data 4096, Nat.le_of_eq List.length_replicate, by decide, by decide, tooManyBits,
    List.length_replicate⟩
theorem test_meets_DecodeReleases_streamTruncation :
    ∃ (s : State) (cap : BitVec 32) (txt : List Sym) (p : Path) (h : Handle), s.eng.err = false ∧ s.eng.treeValid = true ∧
      s.eng.UsableTree ∧ s.eng.DataText txt ∧ txt.length ≤ 4096 ∧ txt.length ≤ cap.toNat ∧ s.eng.EndsInside p h ∧
      bytesToBits s.inp.units = txt.flatMap s.eng.ctPath ++ p ∧ s.inp.tail = .eof :=
  ⟨mkIn smallEng [0xFF], 8#32, List.replicate 8 0x61#8, [], 2, rfl, rfl, smallEng_usable, smallEng_data 8, by decide, by decide,
    smallEng_inside, by decide, rfl⟩
theorem test_meets_DecodeReleases_streamMalformed :
    ∃ (s : State) (cap : BitVec 32) (txt : List Sym) (p : Path) (h : Handle) (b : Bool) (begun rest : List Byte)
      (unread : List Bool), s.eng.err = false ∧ s.eng.treeValid = true ∧ s.eng.UsableTree ∧ s.eng.DataText txt ∧
      txt.length ≤ 4096 ∧ txt.length ≤ cap.toNat ∧ s.eng.EndsInside p h ∧ nextNode s.eng.nodes h b = none ∧
      s.inp.units = begun ++ rest ∧ bytesToBits begun = txt.flatMap s.eng.ctPath ++ p ++ b :: unread ∧ unread.length < 8 :=
  ⟨mkIn partEng [0x10, 0xAA], 1#32, [0x61#8], [false], 2, true, [0x10#8], [0xAA#8], List.replicate 4 false, rfl, rfl,
    partEng_usable, partEng_data, by decide, by decide, partEng_inside, rfl, rfl, by decide, by decide⟩
theorem test_meets_DecodeReleases_streamCapacity :
    ∃ (s : State) (cap : BitVec 32) (txt : List Sym) (x : Sym) (begun rest : List Byte) (unread : List Bool),
      s.eng.err = false ∧ s.eng.treeValid = true ∧ s.eng.UsableTree ∧ s.eng.DataText txt ∧ txt.length ≤ 4096 ∧
      txt.length ≤ cap.toNat ∧ s.eng.ctV x = true ∧ x ≠ s.eng.term ∧ s.inp.units = begun ++ rest ∧
      bytesToBits begun = txt.flatMap s.eng.ctPath ++ s.eng.ctPath x ++ unread ∧ unread.length < 8 ∧ txt.length = cap.toNat :=
  ⟨mkIn smallEng [0xBF], 0#32, [], 0x61#8, [0xBF#8], [], bits [0, 1, 1, 1, 1, 1, 1], rfl, rfl, smallEng_usable, smallEng_data 0,
    by decide, by decide, by decide, by decide, rfl, by decide, by decide, rfl⟩
theorem test_meets_DecodeReleases_streamResource :
    ∃ (s : State) (cap : BitVec 32) (txt : List Sym) (x : Sym) (begun rest : List Byte) (unread : List Bool),
      s.eng.err = false ∧ s.eng.treeValid = true ∧ s.eng.UsableTree ∧ s.eng.DataText txt ∧ s.eng.ctV x = true ∧
      x ≠ s.eng.term ∧ s.inp.units = begun ++ rest ∧
      bytesToBits begun = txt.flatMap s.eng.ctPath ++ s.eng.ctPath x ++ unread ∧ unread.length < 8 ∧
      txt.length < cap.toNat ∧ txt.length = 4096 :=
  ⟨{ mk smallEng with inp := { units := List.replicate 513 0xFF#8 ++ [], tail := .eof } }, 4097#32, List.replicate 4096 0x61#8,
    0x61#8, List.replicate 513 0xFF#8, [], List.replicate 7 true, rfl, rfl, smallEng_usable, smallEng_data 4096, by decide,
    by decide, rfl, tooManyBytes, by decide, lt_of_eq_of_lt List.length_replicate (by decide), List.length_replicate⟩
theorem test_meets_FullTreeNeverMalformed :
    ∃ s t : State, s.eng.err = false ∧ s.eng.treeValid = true ∧ s.eng.UsableTree ∧ s.eng.FullTree ∧
      exec .decodeBb s = .next t ∧ t.eng.err = true :=
  ⟨cutState, _, rfl, rfl, { smallEng_usable with }, smallEng_full, cutState_decodes, cutState_raises⟩

/-! ### Whole-machine rules and invariants -/

theorem test_meets_WritersOfTermFreqAndResult :
    ∃ (s t : State) (i : Instr), exec i s = .next t ∧ i ≠ .reset ∧ (∀ x, i ≠ .setTerm x) ∧ (∀ x v, i ≠ .freqSet x v) ∧
      i ≠ .freqClear ∧ (∀ n, i ≠ .bbGet n) ∧ (∀ x, i ≠ .ctRead x) ∧ i ≠ .build :=
  ⟨cutState, _, .decodeBb, cutState_decodes, by simp, by simp, by simp, by simp, by simp, by simp, by simp⟩
theorem test_meets_WritersOfErrorsTreeAndBuffer :
    ∃ (s t : State) (i : Instr), exec i s = .next t ∧ i ≠ .reset ∧ i ≠ .errAck ∧ s.eng.err = false ∧ t.eng.err = true :=
  ⟨cutState, _, .decodeBb, cutState_decodes, by simp, by simp, rfl, cutState_raises⟩
theorem test_meets_StreamEffects : ∃ (s t : State) (i : Instr), exec i s = .next t := ⟨cutState, _, .decodeBb, cutState_decodes⟩
theorem test_meets_NoStopUnderHostDuties : (mk smallEng).HostDuties := ⟨rfl, rfl⟩

theorem smallEng_twoLeaves : smallEng.TwoLeaves := by
  unfold Engine.TwoLeaves
  decide

/-- A step that CT_READ takes. -/
def stepState : State := { mk smallEng with host := [.command 0x610023#128] }

theorem test_meets_StepKeepsInvariants :
    ∃ s t : State, s.eng.Sound ∧ s.eng.TreeInvariant ∧ s.eng.TwoLeaves ∧ s.eng.treeValid = true ∧ step s = .next t :=
  ⟨stepState, after (.ctRead 0x61#8) (mk smallEng), smallEng_sound, fun _ => smallEng_usable, smallEng_twoLeaves, rfl,
    exec_after (i := .ctRead 0x61#8) (s := mk smallEng) (by decide +kernel)⟩

end Sys2Proof.Tests
end

section
/-! The decoders' walk along paths of the tree, how each decoder ends, and what every ending leaves (43_codec.md R174 to
R185). -/

namespace Sys2Proof.Machine

/-! ### Paths in the arena -/

theorem kindAt_internal {e : Engine} {h : Handle} :
    e.kindAt h = .internal ↔ ∃ l r, e.nodes[h]? = some (.internal l r) := by
  unfold Engine.kindAt
  split <;> simp [*]

/-- Only an INTERNAL record has children. -/
theorem internal_of_nextNode {nodes : List Node} {h c : Handle} {b : Bool} (hn : nextNode nodes h b = some c) :
    ∃ l r, nodes[h]? = some (.internal l r) := by
  unfold nextNode at hn
  split at hn
  · exact ⟨_, _, ‹_›⟩
  · cases hn
  · cases hn

theorem walkPath_cons {nodes : List Node} {h c : Handle} {b : Bool} {p : Path} :
    walkPath nodes h (b :: p) = some c ↔ ∃ d, nextNode nodes h b = some d ∧ walkPath nodes d p = some c :=
  Option.bind_eq_some_iff

theorem walkPath_append (nodes : List Node) (h : Handle) (p q : Path) :
    walkPath nodes h (p ++ q) = (walkPath nodes h p).bind (fun c => walkPath nodes c q) := by
  induction p generalizing h with
  | nil => rfl
  | cons b p ih => simp [walkPath, ih, Option.bind_assoc]

theorem walkPath_snoc {nodes : List Node} {h c : Handle} {p : Path} {b : Bool} :
    walkPath nodes h (p ++ [b]) = some c ↔ ∃ g, walkPath nodes h p = some g ∧ nextNode nodes g b = some c := by
  simp [walkPath_append, walkPath, Option.bind_eq_some_iff]

/-- A path that ends at an INTERNAL record starts at one. -/
theorem internal_of_walkPath {nodes : List Node} {h c : Handle} {p : Path} (hp : walkPath nodes h p = some c)
    (hc : ∃ l r, nodes[c]? = some (.internal l r)) : ∃ l r, nodes[h]? = some (.internal l r) := by
  cases p with
  | nil =>
    cases hp
    exact hc
  | cons b p =>
    obtain ⟨d, hd, -⟩ := walkPath_cons.1 hp
    exact internal_of_nextNode hd

/-! ### The walk over a path's bits -/

theorem walkBits_singleton (env : WalkEnv) (w : Walk) (b : Bool) : walkBits env w [b] = walkBit env w b := by
  simp only [walkBits]
  split <;> simp [*]

/-- Once a walk has ended, whatever bits follow are ignored (R175). -/
theorem walkBits_append_of_ended {env : WalkEnv} {w : Walk} {front : List Bool} (rest : List Bool)
    (h : ∀ v, walkBits env w front ≠ .running v) : walkBits env w (front ++ rest) = walkBits env w front := by
  induction front generalizing w with
  | nil => exact absurd rfl (h w)
  | cons b front ih =>
    simp only [walkBits, List.cons_append] at h ⊢
    cases hb : walkBit env w b with
    | running v =>
      rw [hb] at h
      exact ih h
    | returned v => rfl
    | failed v code i0 i1 => rfl

theorem walkBits_append_of_failed {env : WalkEnv} {w w' : Walk} {code : ErrCode} {i0 i1 : Reg} {front : List Bool}
    (rest : List Bool) (h : walkBits env w front = .failed w' code i0 i1) :
    walkBits env w (front ++ rest) = .failed w' code i0 i1 := by
  rw [walkBits_append_of_ended rest (by simp [h]), h]

/-- A path to an INTERNAL record passes INTERNAL records only, so the walk stores nothing on it. -/
theorem walkBits_toInternal {env : WalkEnv} {w : Walk} {p : Path} {c : Handle}
    (hp : walkPath env.nodes w.h p = some c) (hc : ∃ l r, env.nodes[c]? = some (.internal l r)) :
    walkBits env w p = .running { w with h := c, k := w.k + p.length } := by
  induction p generalizing w with
  | nil =>
    cases hp
    rfl
  | cons b p ih =>
    obtain ⟨d, hd, hp⟩ := walkPath_cons.1 hp
    obtain ⟨l, r, hi⟩ := internal_of_walkPath hp hc
    simp only [walkBits, walkBit_internal hd hi]
    rw [ih hp]
    simp only [List.length_cons, Nat.add_assoc, Nat.add_comm 1]

/-- The last bit of a path decides how the walk stands at its end. -/
theorem walkBits_snoc {env : WalkEnv} {w : Walk} {p : Path} {b : Bool} {c : Handle}
    (hp : walkPath env.nodes w.h (p ++ [b]) = some c) :
    ∃ g, nextNode env.nodes g b = some c ∧
      walkBits env w (p ++ [b]) = walkBit env { w with h := g, k := w.k + p.length } b := by
  obtain ⟨g, hg, hb⟩ := walkPath_snoc.1 hp
  refine ⟨g, hb, ?_⟩
  rw [walkBits_append_of_running [b] (walkBits_toInternal hg (internal_of_nextNode hb)), walkBits_singleton]

/-- A path to a data leaf stores its symbol, or finds no room for it. -/
theorem walkBits_toDataLeaf {env : WalkEnv} {w : Walk} {p : Path} {c : Handle} {x : Sym} (hne : p ≠ [])
    (hp : walkPath env.nodes w.h p = some c) (hc : env.nodes[c]? = some (.leaf x)) (hx : x ≠ env.term) :
    walkBits env w p = storeSymbol env x { w with h := c, k := w.k + p.length } := by
  obtain ⟨q, b, rfl⟩ := List.eq_nil_or_concat' p |>.resolve_left hne
  obtain ⟨g, hg, hw⟩ := walkBits_snoc hp
  rw [hw, walkBit_data hg hc hx]
  simp only [List.length_append, List.length_singleton, Nat.add_assoc]

/-! ### The walk over a text's code words -/

section
variable {e : Engine} {cap : Option Nat} (hT : e.UsableTree)
include hT

/-- R26 (b): the code word of a data symbol leads from ROOT to the symbol's leaf. -/
theorem walkBits_ctPath {w : Walk} {x : Sym} (hw : w.h = e.root) (hx : e.ctV x = true) (hne : x ≠ e.term) :
    ∃ c, walkBits (walkEnv e cap) w (e.ctPath x) =
      storeSymbol (walkEnv e cap) x { w with h := c, k := w.k + (e.ctPath x).length } := by
  obtain ⟨c, hc⟩ := (hT.codesAreLeaves x).1 hx
  have hlen : 0 < (e.ctPath x).length := (hT.pathLengths x hx).1
  have hp : walkPath e.nodes w.h (e.ctPath x) = some c := hw ▸ hT.pathEndsAtLeaf c x hc
  exact ⟨c, walkBits_toDataLeaf (List.ne_nil_of_length_pos hlen) hp hc hne⟩

/-- R174: data symbols for which there is room are stored one after another, the cursor back at ROOT after each. -/
theorem walkBits_dataText {w : Walk} {text : List Sym} (hw : w.h = e.root) (hd : e.DataText text)
    (hroom : w.obuf.length + text.length ≤ 4096) (hcap : ∀ n, cap = some n → w.obuf.length + text.length ≤ n) :
    walkBits (walkEnv e cap) w (text.flatMap e.ctPath) =
      .running { h := e.root, k := w.k + (text.flatMap e.ctPath).length, obuf := w.obuf ++ text } := by
  induction text generalizing w with
  | nil => simp [walkBits, ← hw]
  | cons x text ih =>
    obtain ⟨⟨hx, hne⟩, hd⟩ := dataText_cons.1 hd
    obtain ⟨c, hc⟩ := walkBits_ctPath (cap := cap) hT hw hx hne
    simp only [List.length_cons] at hroom hcap
    rw [storeSymbol_room x (fun h => by have := hcap _ h; simp only at this; omega)
      (by simp only [Config.obufCap]; omega)] at hc
    rw [List.flatMap_cons, walkBits_append_of_running _ hc,
      ih rfl hd (by simp; omega) (fun n hn => by have := hcap n hn; simp; omega)]
    simp [Nat.add_assoc]

variable {text : List Sym} (hd : e.DataText text) (hroom : text.length ≤ 4096)
  (hcap : ∀ n, cap = some n → text.length ≤ n)
include hd hroom hcap

/-- The walk from its start over the code words of data symbols. -/
theorem walkBits_start_dataText :
    walkBits (walkEnv e cap) (Walk.start e.root) (text.flatMap e.ctPath) =
      .running { h := e.root, k := (text.flatMap e.ctPath).length, obuf := text } := by
  have h := walkBits_dataText (cap := cap) (w := Walk.start e.root) hT rfl hd (by simpa [Walk.start] using hroom)
    (by simpa [Walk.start] using hcap)
  simpa [Walk.start] using h

/-- R178: the bits end inside a path. -/
theorem walkBits_endsInside {p : Path} {h : Handle} (hp : e.EndsInside p h) :
    walkBits (walkEnv e cap) (Walk.start e.root) (text.flatMap e.ctPath ++ p) =
      .running { h := h, k := (text.flatMap e.ctPath ++ p).length, obuf := text } := by
  obtain ⟨hwalk, hkind⟩ := hp
  rw [walkBits_append_of_running p (walkBits_start_dataText hT hd hroom hcap), List.length_append]
  exact walkBits_toInternal (env := walkEnv e cap) hwalk (kindAt_internal.1 hkind)

/-- R176: a bit that finds no child, `k` being the bits before it. -/
theorem walkBits_missingChild {p : Path} {h : Handle} {b : Bool} (hp : e.EndsInside p h)
    (hb : nextNode e.nodes h b = none) :
    walkBits (walkEnv e cap) (Walk.start e.root) (text.flatMap e.ctPath ++ p ++ [b]) =
      .failed { h := h, k := (text.flatMap e.ctPath ++ p ++ [b]).length, obuf := text } .malformed
        (infoNat (text.flatMap e.ctPath ++ p).length) (infoNat h) := by
  rw [walkBits_append_of_running [b] (walkBits_endsInside hT hd hroom hcap hp), walkBits_singleton,
    walkBit_missing hb, List.length_append (bs := [b]), List.length_singleton]

/-- The code word after those of a text reaches its leaf with all its bits consumed. -/
theorem walkBits_nextSymbol {x : Sym} (hx : e.ctV x = true) (hne : x ≠ e.term) :
    ∃ c, walkBits (walkEnv e cap) (Walk.start e.root) (text.flatMap e.ctPath ++ e.ctPath x) =
      storeSymbol (walkEnv e cap) x { h := c, k := (text.flatMap e.ctPath ++ e.ctPath x).length, obuf := text } := by
  rw [walkBits_append_of_running _ (walkBits_start_dataText hT hd hroom hcap), List.length_append]
  exact walkBits_ctPath hT rfl hx hne

end

/-! ### The walk over bytes -/

/-- Where a walk stands, however it ended. -/
def WalkStep.walk : WalkStep → Walk
  | .running w => w
  | .returned w => w
  | .failed w _ _ _ => w

theorem storeSymbol_k (env : WalkEnv) (x : Sym) (w : Walk) : (storeSymbol env x w).walk.k = w.k := by
  unfold storeSymbol
  split
  · rfl
  · split <;> rfl

/-- Each bit counts once, whatever it leads to. -/
theorem walkBit_k (env : WalkEnv) (w : Walk) (b : Bool) : (walkBit env w b).walk.k = w.k + 1 := by
  unfold walkBit
  split
  · rfl
  · split
    · split
      · rfl
      · exact storeSymbol_k ..
    · rfl
    · rfl

theorem walkBits_running_k {env : WalkEnv} {w w' : Walk} {bits : List Bool} (h : walkBits env w bits = .running w') :
    w'.k = w.k + bits.length := by
  induction bits generalizing w with
  | nil =>
    cases h
    rfl
  | cons b bits ih =>
    have hk := walkBit_k env w b
    simp only [walkBits] at h
    split at h
    · rename_i v hv
      rw [hv] at hk
      simp only [WalkStep.walk] at hk
      rw [ih h, hk, List.length_cons]
      omega
    · cases h
    · cases h

/-- The walk consumes some of the bits, and the first one at least. -/
theorem walkBits_k_bounds (env : WalkEnv) (w : Walk) (bits : List Bool) :
    w.k + min 1 bits.length ≤ (walkBits env w bits).walk.k ∧ (walkBits env w bits).walk.k ≤ w.k + bits.length := by
  induction bits generalizing w with
  | nil => simp [walkBits, WalkStep.walk]
  | cons b bits ih =>
    have hk := walkBit_k env w b
    simp only [walkBits, List.length_cons]
    split
    · rename_i v hv
      rw [hv] at hk
      have := ih v
      simp only [WalkStep.walk] at hk
      omega
    · rename_i v hv
      rw [hv] at hk
      simp only [WalkStep.walk] at hk ⊢
      omega
    · rename_i v _ _ _ hv
      rw [hv] at hk
      simp only [WalkStep.walk] at hk ⊢
      omega

@[simp] theorem byteBits_length (x : Byte) : (byteBits x).length = 8 := rfl

theorem bytesToBits_cons (x : Byte) (bytes : List Byte) :
    bytesToBits (x :: bytes) = byteBits x ++ bytesToBits bytes := List.flatMap_cons

theorem bytesToBits_append (front rest : List Byte) :
    bytesToBits (front ++ rest) = bytesToBits front ++ bytesToBits rest := List.flatMap_append

theorem bytesToBits_length (bytes : List Byte) : (bytesToBits bytes).length = 8 * bytes.length := by
  induction bytes with
  | nil => rfl
  | cons x bytes ih =>
    rw [bytesToBits_cons, List.length_append, byteBits_length, ih, List.length_cons]
    omega

/-- R174, R183: the walk over bytes ends as the walk over their bits does. -/
theorem walkBytes_fst (env : WalkEnv) (w : Walk) (bytes : List Byte) :
    (walkBytes env w bytes).1 = walkBits env w (bytesToBits bytes) := by
  induction bytes generalizing w with
  | nil => rfl
  | cons x bytes ih =>
    rw [bytesToBits_cons]
    simp only [walkBytes]
    cases hx : walkBits env w (byteBits x) with
    | running v => rw [walkBits_append_of_running _ hx, ← ih]
    | returned v => rw [walkBits_append_of_ended _ (by simp [hx]), hx]
    | failed v code i0 i1 => rw [walkBits_append_of_failed _ hx]

/-- R184: the bytes read are those whose bits were begun. -/
theorem walkBytes_snd (env : WalkEnv) (w : Walk) (bytes : List Byte) :
    (walkBytes env w bytes).2 = ((walkBits env w (bytesToBits bytes)).walk.k - w.k + 7) / 8 := by
  induction bytes generalizing w with
  | nil => simp [walkBytes, bytesToBits, walkBits, WalkStep.walk]
  | cons x bytes ih =>
    have hbounds := walkBits_k_bounds env w (byteBits x)
    simp only [byteBits_length] at hbounds
    rw [bytesToBits_cons]
    simp only [walkBytes]
    cases hx : walkBits env w (byteBits x) with
    | running v =>
      have hk := walkBits_running_k hx
      have hrest := walkBits_k_bounds env v (bytesToBits bytes)
      rw [byteBits_length] at hk
      rw [walkBits_append_of_running _ hx]
      simp only [ih v]
      omega
    | returned v =>
      rw [walkBits_append_of_ended _ (by simp [hx]), hx]
      rw [hx] at hbounds
      simp only [WalkStep.walk] at hbounds ⊢
      omega
    | failed v code i0 i1 =>
      rw [walkBits_append_of_failed _ hx]
      rw [hx] at hbounds
      simp only [WalkStep.walk] at hbounds ⊢
      omega

/-- The walk over bytes from its start, and the bytes it read, from the walk over their bits. -/
theorem walkBytes_start {env : WalkEnv} {root : Handle} {bytes : List Byte} {r : WalkStep}
    (h : walkBits env (Walk.start root) (bytesToBits bytes) = r) :
    walkBytes env (Walk.start root) bytes = (r, (r.walk.k + 7) / 8) :=
  Prod.ext ((walkBytes_fst ..).trans h) (by rw [walkBytes_snd, h]; rfl)

/-- R184, R185: a walk that raises at the last of `bits` has read the bytes it began, whatever follows them and whatever
their unread bits are. -/
theorem walkBytes_failed {env : WalkEnv} {root : Handle} {begun rest : List Byte} {bits unread : List Bool} {w : Walk}
    {code : ErrCode} {i0 i1 : Reg} (hbits : bytesToBits begun = bits ++ unread) (hunread : unread.length < 8)
    (hw : walkBits env (Walk.start root) bits = .failed w code i0 i1) (hk : w.k = bits.length) :
    walkBytes env (Walk.start root) (begun ++ rest) = (.failed w code i0 i1, begun.length) := by
  have hlen := congrArg List.length hbits
  rw [bytesToBits_length, List.length_append] at hlen
  have hread : (w.k + 7) / 8 = begun.length := by omega
  have hall : walkBits env (Walk.start root) (bytesToBits (begun ++ rest)) = .failed w code i0 i1 := by
    rw [bytesToBits_append, hbits, List.append_assoc, walkBits_append_of_failed _ hw]
  rw [walkBytes_start hall, WalkStep.walk, hread]

/-! ### How a decoder's raise ends the command -/

theorem decodeBbBody_failed {s : State} {w : Walk} {code : ErrCode} {i0 i1 : Reg}
    (hw : walkBits (walkEnv s.eng none) (Walk.start s.eng.root) s.eng.bb = .failed w code i0 i1) :
    decodeBbBody s = .raised (s.keepWalk w) code i0 i1 := by
  simp [decodeBbBody, hw]

/-- R178, R181: the buffer ends before the terminator. -/
theorem decodeBbBody_running {s : State} {w : Walk}
    (hw : walkBits (walkEnv s.eng none) (Walk.start s.eng.root) s.eng.bb = .running w) :
    decodeBbBody s = .raised (s.keepWalk w) .truncation (infoNat w.k) s.eng.bbLen := by
  simp [decodeBbBody, hw, State.keepWalk, Engine.bbLen]

theorem decodeStreamBody_failed {s : State} {cap : BitVec 32} {w : Walk} {n : Nat} {code : ErrCode} {i0 i1 : Reg}
    (hw : walkBytes (walkEnv s.eng (some cap.toNat)) (Walk.start s.eng.root) s.inp.units = (.failed w code i0 i1, n)) :
    decodeStreamBody cap s = .raised ((s.readIn n).keepWalk w) code i0 i1 := by
  simp [decodeStreamBody, countOf, hw]

/-- R178, R185: end of data before the terminator. -/
theorem decodeStreamBody_running {s : State} {cap : BitVec 32} {w : Walk} {n : Nat} (heof : s.inp.tail = .eof)
    (hw : walkBytes (walkEnv s.eng (some cap.toNat)) (Walk.start s.eng.root) s.inp.units = (.running w, n)) :
    decodeStreamBody cap s =
      .raised ((s.readIn n).keepWalk w) .truncation (infoNat w.k) (s.eng.inCount + BitVec.ofNat 64 n) := by
  simp only [decodeStreamBody, countOf, hw, finishWalk_running]
  exact atEndOfIn_eof _ heof

/-- Where a decoder's body raises after the walk `w`, with `n` bytes read, error entry leaves the state of R180. -/
theorem finish_raised_keepWalk (s : State) (op : BitVec 8) (n : Nat) (w : Walk) (code : ErrCode) (i0 i1 : Reg) :
    finish op (.raised (((s.setEng s.eng.zeroCounters).readIn n).keepWalk w) code i0 i1) =
      .next (s.decodeRaised op code i0 i1 w.obuf n) := by
  simp [State.keepWalk, State.readIn, State.setEng, Engine.zeroCounters, Engine.enterError, State.decodeRaised]

theorem readIn_zero (s : State) : s.readIn 0 = s := by simp [State.readIn]

section
variable {s : State} (herr : s.eng.err = false) (htree : s.eng.treeValid = true)
include herr htree

/-- R227, R228: with ERR = 0 and a tree a command that needs one zeroes the counters and runs. -/
theorem runCommand_needTree (op : BitVec 8) (body : State → Result) :
    runCommand op (needTree op body) s = finish op (body (s.setEng s.eng.zeroCounters)) := by
  rw [runCommand_runs _ _ herr, needTree_valid _ _ (by simpa using htree)]

/-- A raise in the buffer, whatever bits follow. -/
theorem execDecodeBb_failed {bits rest : List Bool} {w : Walk} {code : ErrCode} {i0 i1 : Reg}
    (hbb : s.eng.bb = bits ++ rest)
    (hw : walkBits (walkEnv s.eng none) (Walk.start s.eng.root) bits = .failed w code i0 i1) :
    exec .decodeBb s = .next (s.decodeRaised 0x31#8 code i0 i1 w.obuf 0) := by
  have hall := walkBits_append_of_failed rest hw
  rw [← hbb] at hall
  rw [← finish_raised_keepWalk, readIn_zero, ← decodeBbBody_failed (s := s.setEng s.eng.zeroCounters) hall]
  exact runCommand_needTree herr htree 0x31#8 decodeBbBody

theorem execDecodeBb_running {w : Walk}
    (hw : walkBits (walkEnv s.eng none) (Walk.start s.eng.root) s.eng.bb = .running w) :
    exec .decodeBb s = .next (s.decodeRaised 0x31#8 .truncation
      (BitVec.ofNat 64 s.eng.bb.length) (BitVec.ofNat 64 s.eng.bb.length) w.obuf 0) := by
  have hk : infoNat w.k = BitVec.ofNat 64 s.eng.bb.length := by simp [infoNat, walkBits_running_k hw, Walk.start]
  have hbody := decodeBbBody_running (s := s.setEng s.eng.zeroCounters) hw
  rw [hk] at hbody
  rw [← finish_raised_keepWalk, readIn_zero]
  exact (runCommand_needTree herr htree 0x31#8 decodeBbBody).trans (congrArg (finish 0x31#8) hbody)

variable {cap : BitVec 32}

/-- R185: a raise in the stream keeps the bytes begun consumed. -/
theorem execDecodeStream_failed {begun rest : List Byte} {bits unread : List Bool} {w : Walk} {code : ErrCode}
    {i0 i1 : Reg} (hunits : s.inp.units = begun ++ rest) (hbits : bytesToBits begun = bits ++ unread)
    (hunread : unread.length < 8)
    (hw : walkBits (walkEnv s.eng (some cap.toNat)) (Walk.start s.eng.root) bits = .failed w code i0 i1)
    (hk : w.k = bits.length) :
    exec (.decodeStream cap) s = .next (s.decodeRaised 0x32#8 code i0 i1 w.obuf begun.length) := by
  have hall := walkBytes_failed (rest := rest) hbits hunread hw hk
  rw [← hunits] at hall
  rw [← finish_raised_keepWalk, ← decodeStreamBody_failed (s := s.setEng s.eng.zeroCounters) hall]
  exact runCommand_needTree herr htree 0x32#8 (decodeStreamBody cap)

theorem execDecodeStream_running {w : Walk} (heof : s.inp.tail = .eof)
    (hw : walkBits (walkEnv s.eng (some cap.toNat)) (Walk.start s.eng.root) (bytesToBits s.inp.units) = .running w) :
    exec (.decodeStream cap) s = .next (s.decodeRaised 0x32#8 .truncation
      (BitVec.ofNat 64 (8 * s.inp.units.length)) (BitVec.ofNat 64 s.inp.units.length) w.obuf s.inp.units.length) := by
  have hk : w.k = 8 * s.inp.units.length := by simp [walkBits_running_k hw, bytesToBits_length, Walk.start]
  have hread : (w.k + 7) / 8 = s.inp.units.length := by omega
  have hall := walkBytes_start hw
  simp only [WalkStep.walk, hread] at hall
  have hbody := decodeStreamBody_running (s := s.setEng s.eng.zeroCounters) heof hall
  rw [← finish_raised_keepWalk, ← hk, ← BitVec.zero_add (BitVec.ofNat 64 s.inp.units.length)]
  exact (runCommand_needTree herr htree 0x32#8 (decodeStreamBody cap)).trans (congrArg (finish 0x32#8) hbody)

end

/-! ### Release on success only (R180) -/

/-- R14, R180: a decoder's body writes SYMOUT where it comes to its end, and then the symbols that OBUF holds and
SYM_COUNT counted; where it raises it writes nothing. -/
def Result.ReleasesFrom (s : State) : Result → Prop
  | .ok t => t.eng.err = s.eng.err ∧ t.symOut = s.symOut ++ t.eng.obuf ∧
      t.eng.symCount = s.eng.symCount + BitVec.ofNat 64 t.eng.obuf.length
  | .raised t _ _ _ => t.symOut = s.symOut
  | .stuck _ => True

theorem finishWalk_releases {s : State} {onEnd : Walk → State → Result}
    (hend : ∀ w, (onEnd w (s.keepWalk w)).ReleasesFrom s) (r : WalkStep) : (finishWalk s onEnd r).ReleasesFrom s := by
  cases r with
  | running w => exact hend w
  | returned w => exact ⟨rfl, rfl, rfl⟩
  | failed w code i0 i1 => exact rfl

theorem decodeBbBody_releases (s : State) : (decodeBbBody s).ReleasesFrom s := by
  refine finishWalk_releases (fun w => ?_) _
  exact rfl

theorem atEndOfIn_releases {s u : State} {r : Result} (h : r.ReleasesFrom s) : (atEndOfIn u r).ReleasesFrom s := by
  unfold atEndOfIn
  split
  · exact h
  · exact trivial

theorem decodeStreamBody_releases (cap : BitVec 32) (s : State) : (decodeStreamBody cap s).ReleasesFrom s := by
  unfold decodeStreamBody
  refine finishWalk_releases (s := s.readIn _) (fun w => atEndOfIn_releases ?_) _
  exact rfl

theorem needTree_releases (op : BitVec 8) {body : State → Result} {s : State} (h : (body s).ReleasesFrom s) :
    (needTree op body s).ReleasesFrom s := by
  unfold needTree
  split
  · exact h
  · exact rfl

theorem runCommand_releases {op : BitVec 8} {body : State → Result} {s t : State} (herr : s.eng.err = false)
    (hbody : (body (s.setEng s.eng.zeroCounters)).ReleasesFrom (s.setEng s.eng.zeroCounters))
    (h : runCommand op body s = .next t) :
    (t.eng.err = true → t.symOut = s.symOut) ∧
    (t.eng.err = false → t.symOut = s.symOut ++ t.eng.obuf ∧ t.eng.symCount = BitVec.ofNat 64 t.eng.obuf.length) := by
  obtain ⟨hdrop, -⟩ | ⟨-, hok⟩ | ⟨-, u, code, i0, i1, hraise, rfl⟩ := runCommand_next h
  · simp [herr] at hdrop
  · rw [hok] at hbody
    obtain ⟨hno, hout, hcount⟩ := hbody
    have hzero : t.eng.symCount = BitVec.ofNat 64 t.eng.obuf.length := hcount.trans (BitVec.zero_add _)
    exact ⟨fun hyes => absurd (hyes.symm.trans (hno.trans herr)) (by simp), fun _ => ⟨hout, hzero⟩⟩
  · rw [hraise] at hbody
    exact ⟨fun _ => hbody, fun hno => absurd hno (by simp)⟩

/-! ### The obligation -/

/-- Settles O52: release by the cases of how a command ends; each error from the walk over the text's code words and what
follows them, over the buffer's bits and over the bits of the bytes begun. -/
theorem decodeReleasesOnSuccessOnly : Obligations.DecodeReleasesOnSuccessOnly := by
  refine ⟨?_, ?_, ?_⟩
  · rintro s t i (rfl | ⟨cap, rfl⟩) herr h
    · exact runCommand_releases herr (needTree_releases _ (decodeBbBody_releases _)) h
    · exact runCommand_releases herr (needTree_releases _ (decodeStreamBody_releases cap _)) h
  · intro s text herr htree hT hd hroom
    have hcap : ∀ n, none = some n → text.length ≤ n := by simp
    refine ⟨fun p h hp hbb => ?_, fun p h b rest hp hb hbb => ?_, fun x rest hx hne hbb hfull => ?_⟩
    · exact execDecodeBb_running herr htree (hbb ▸ walkBits_endsInside hT hd hroom hcap hp)
    · exact execDecodeBb_failed (rest := rest) herr htree (by simpa using hbb)
        (walkBits_missingChild hT hd hroom hcap hp hb)
    · obtain ⟨c, hc⟩ := walkBits_nextSymbol hT hd hroom hcap hx hne
      rw [storeSymbol_full x (by simp [walkEnv]) hfull] at hc
      exact execDecodeBb_failed herr htree hbb hc
  · intro s cap text herr htree hT hd hroom hlecap
    have hcap : ∀ n, some cap.toNat = some n → text.length ≤ n := fun n h => Option.some.inj h ▸ hlecap
    refine ⟨fun p h hp hunits heof => ?_, fun p h b begun rest unread hp hb hunits hbits hunread => ?_,
      fun x begun rest unread hx hne hunits hbits hunread => ?_⟩
    · exact execDecodeStream_running herr htree heof (hunits ▸ walkBits_endsInside hT hd hroom hcap hp)
    · exact execDecodeStream_failed herr htree hunits (by simpa using hbits) hunread
        (walkBits_missingChild hT hd hroom hcap hp hb) rfl
    · obtain ⟨c, hc⟩ := walkBits_nextSymbol hT hd hroom hcap hx hne
      refine ⟨fun hfull => ?_, fun hlt hfull => ?_⟩
      · rw [storeSymbol_capacity x (by simp [walkEnv, hfull])] at hc
        have hinfo : cap.setWidth 64 = infoNat text.length := by rw [hfull, infoNat, BitVec.ofNat_toNat]
        rw [hinfo]
        exact execDecodeStream_failed herr htree hunits hbits hunread hc rfl
      · have hbelow : some cap.toNat ≠ some text.length := fun h => absurd (Option.some.inj h) (Nat.ne_of_gt hlt)
        rw [storeSymbol_full x hbelow hfull] at hc
        exact execDecodeStream_failed herr htree hunits hbits hunread hc rfl

end Sys2Proof.Machine
end

section
/-! What a command can leave, once for every command: its body run in the frame of R228, the parts of the engine it may
write (10_state.md R21 to R32), and an induction over what one step does to the engine. -/

namespace Sys2Proof.Machine

/-! ### How a command's body ends -/

/-- The engine a body ends with meets `ok`, or, at a raise, meets `raised` together with the error code. -/
def Result.Ends (ok : Engine → Prop) (raised : Engine → ErrCode → Prop) : Result → Prop
  | .ok s => ok s.eng
  | .raised s code _ _ => raised s.eng code
  | .stuck _ => True

/-- The state after these bytes are read from IN into the bit buffer. -/
def State.loaded (s : State) (got : List Byte) : State :=
  (s.readIn got.length).setEng ((s.readIn got.length).eng.setBb (bytesToBits got))

section
variable {ok ok' : Engine → Prop} {raised raised' : Engine → ErrCode → Prop}

theorem Result.Ends.imp {r : Result} (h : r.Ends ok raised) (hok : ∀ e, ok e → ok' e)
    (hraised : ∀ e code, raised e code → raised' e code) : r.Ends ok' raised' := by
  cases r with
  | ok s => exact hok _ h
  | raised s code i0 i1 => exact hraised _ _ h
  | stuck f => trivial

theorem needTree_ends {op : BitVec 8} {body : State → Result} {s : State} (hno : raised s.eng .noTree)
    (h : s.eng.treeValid = true → (body s).Ends ok raised) : (needTree op body s).Ends ok raised := by
  cases htree : s.eng.treeValid with
  | true =>
    rw [needTree_valid op body htree]
    exact h htree
  | false =>
    rw [needTree_missing op body htree]
    exact hno

theorem atEndOfIn_ends {s : State} {r : Result} (h : r.Ends ok raised) : (atEndOfIn s r).Ends ok raised := by
  unfold atEndOfIn
  split
  · exact h
  · trivial

theorem atEndOfSym_ends {s : State} {r : Result} (h : r.Ends ok raised) : (atEndOfSym s r).Ends ok raised := by
  unfold atEndOfSym
  split
  · exact h
  · trivial

/-- Loading the buffer ends at one of its two raises, or goes on with bytes that fit. -/
theorem loadBuffer_ends {n : Nat} {done : State → Result} {s : State} (hlong : raised s.eng .resource)
    (hshort : ∀ got : List Byte, 8 * got.length ≤ Config.bbCapBits → raised (s.loaded got).eng .truncation)
    (hdone : ∀ got : List Byte, 8 * got.length ≤ Config.bbCapBits → (done (s.loaded got)).Ends ok raised) :
    (loadBuffer n done s).Ends ok raised := by
  by_cases hn : 8 * n ≤ Config.bbCapBits
  · by_cases hlen : n ≤ s.inp.units.length
    · rw [loadBuffer_enough done s hn hlen]
      have htake : (s.inp.units.take n).length = n := List.length_take_of_le hlen
      have := hdone (s.inp.units.take n) (by omega)
      rwa [State.loaded, htake] at this
    · rw [loadBuffer_short done s hn (Nat.lt_of_not_le hlen)]
      exact atEndOfIn_ends (hshort s.inp.units (by omega))
  · rw [loadBuffer_tooLong done s (Nat.lt_of_not_le hn)]
    exact hlong

end

/-- Where a body's ends keep a property through error entry, and dropping keeps it, the command keeps it (R226, R228). -/
theorem runCommand_keeps {P : Engine → Prop} {op : BitVec 8} {body : State → Result} {s t : State}
    (h : runCommand op body s = .next t) (hdrop : s.eng.err = true → P s.eng.markDropped)
    (hbody : s.eng.err = false →
      (body (s.setEng s.eng.zeroCounters)).Ends P (fun e code => ∀ i0 i1, P (e.enterError op code i0 i1))) :
    P t.eng := by
  obtain ⟨herr, rfl⟩ | ⟨herr, hok⟩ | ⟨herr, u, code, i0, i1, hraise, rfl⟩ := runCommand_next h
  · exact hdrop herr
  · have hend := hbody herr
    rw [hok] at hend
    exact hend
  · have hend := hbody herr
    rw [hraise] at hend
    exact hend i0 i1

/-! ### The body of each command -/

/-- What each command runs in the frame of R228. RESET and ERR_ACK run outside that frame (R204) and have no body. -/
def commandBody : Instr → State → Result
  | .nop | .reset | .errAck => fun s => .ok s
  | .setTerm t => fun s => .ok (s.setEng (s.eng.setTerminator t))
  | .freqClear => fun s => .ok (s.setEng { s.eng with freq := emptyFreq })
  | .freqSet x v => fun s => .ok (s.setEng { s.eng with freq := symPut s.eng.freq x (some v) })
  | .build => buildBody
  | .tableExport => needTree (opcode .tableExport) (fun s => .ok (s.writeOut (exportText s.eng.ct)))
  | .tableImport n => tableImportBody n
  | .ctRead x => needTree (opcode (.ctRead x)) (ctReadBody x)
  | .encode n => needTree (opcode (.encode n)) (encodeBody n)
  | .decodeBb => needTree (opcode .decodeBb) decodeBbBody
  | .decodeStream cap => needTree (opcode (.decodeStream cap)) (decodeStreamBody cap)
  | .bbClear => fun s => .ok (s.setEng (s.eng.setBb []))
  | .bbAppend b => bbAppendBody b
  | .bbGet n => bbGetBody n
  | .bbEmit => fun s => .ok (s.writeOut (packBytes s.eng.bb))
  | .bbLoad n => loadBuffer (countOf n) (fun s => .ok s)

theorem exec_eq_runCommand {i : Instr} (hreset : i ≠ .reset) (hack : i ≠ .errAck) (s : State) :
    exec i s = runCommand (opcode i) (commandBody i) s := by
  cases i with
  | reset => exact absurd rfl hreset
  | errAck => exact absurd rfl hack
  | _ => rfl

/-! ### The parts of the engine -/

/-- The parts of R20's table that a command writes or leaves as a whole; the counters are in none of them (R34). -/
inductive Part where
  | term
  | freq
  | result
  | tree
  | buffer
  | obuf
  | errors
deriving DecidableEq

/-- Two engines that do not differ in a part. -/
def Engine.Agrees (e e' : Engine) : Part → Prop
  | .term => e'.term = e.term
  | .freq => e'.freq = e.freq
  | .result => e'.result = e.result
  | .tree => e'.nodes = e.nodes ∧ e'.root = e.root ∧ e'.ct = e.ct ∧ e'.treeValid = e.treeValid ∧
      e'.synTerm = e.synTerm ∧ e'.tblBytes = e.tblBytes
  | .buffer => e'.bb = e.bb
  | .obuf => e'.obuf = e.obuf
  | .errors => e'.err = e.err ∧ e'.drop = e.drop ∧ e'.errCode = e.errCode ∧ e'.errOp = e.errOp ∧
      e'.errInfo0 = e.errInfo0 ∧ e'.errInfo1 = e.errInfo1

/-- The engine is unchanged but for these parts and the counters. -/
def Engine.KeepsBut (parts : List Part) (e e' : Engine) : Prop := ∀ p, p ∉ parts → e.Agrees e' p

/-- The parts the body of a command may write (R21, R22, R24, R27, R28, R32). -/
def writes : Instr → List Part
  | .nop | .reset | .errAck | .tableExport | .bbEmit => []
  | .setTerm _ => [.term, .tree]
  | .freqClear | .freqSet _ _ => [.freq]
  | .build => [.tree, .result]
  | .tableImport _ => [.tree, .buffer]
  | .ctRead _ => [.buffer, .result]
  | .encode _ | .bbClear | .bbAppend _ | .bbLoad _ => [.buffer]
  | .decodeBb | .decodeStream _ => [.obuf]
  | .bbGet _ => [.result]

/-- Only error entry and its acknowledgement write the error registers (R31). -/
theorem errors_notMem_writes (i : Instr) : Part.errors ∉ writes i := by
  cases i <;> simp [writes]

/-- What a raise leaves where the body may write `parts`: RESULT as it was (R32), and an error to record. -/
def RaisesWith (parts : List Part) (e e' : Engine) (code : ErrCode) : Prop :=
  e.KeepsBut parts e' ∧ e'.result = e.result ∧ code ≠ .noError

section
variable {e : Engine} {parts : List Part}

theorem Engine.agrees_refl (e : Engine) (p : Part) : e.Agrees e p := by
  cases p <;> simp [Engine.Agrees]

theorem keepsBut_refl (e : Engine) (parts : List Part) : e.KeepsBut parts e := fun p _ => e.agrees_refl p

theorem enterError_keeps {p : Part} (hp : p ≠ .errors) (op : BitVec 8) (code : ErrCode) (i0 i1 : Reg) :
    e.Agrees (e.enterError op code i0 i1) p := by
  cases p <;> simp_all [Engine.Agrees]

theorem markDropped_keeps {p : Part} (hp : p ≠ .errors) : e.Agrees e.markDropped p := by
  cases p <;> simp_all [Engine.Agrees]

theorem ackError_keeps {p : Part} (hp : p ≠ .errors) : e.Agrees e.zeroCounters.ackError p := by
  cases p <;> simp_all [Engine.Agrees]

theorem Engine.Agrees.trans {e' e'' : Engine} {p : Part} (h : e.Agrees e' p) (h' : e'.Agrees e'' p) :
    e.Agrees e'' p := by
  cases p <;> simp_all [Engine.Agrees]

/-- The counters are in no part. -/
theorem counters_keep (e : Engine) (parts : List Part) (ic oc sc : Reg) :
    e.KeepsBut parts { e with inCount := ic, outCount := oc, symCount := sc } := fun p _ => e.agrees_refl p

/-- Writing the bit buffer, with any of the counters. -/
theorem buffer_keeps (hb : Part.buffer ∈ parts) (bits : List Bool) (ic oc sc : Reg) :
    e.KeepsBut parts { e with bb := bits, inCount := ic, outCount := oc, symCount := sc } := by
  intro p hp
  cases p <;> simp_all [Engine.Agrees]

/-- Writing OBUF, with any of the counters. -/
theorem obuf_keeps (ho : Part.obuf ∈ parts) (syms : List Sym) (ic sc : Reg) :
    e.KeepsBut parts { e with obuf := syms, inCount := ic, symCount := sc } := by
  intro p hp
  cases p <;> simp_all [Engine.Agrees]

end

end Sys2Proof.Machine
end

section
/-! The ends of each command's body: what they write, the errors they raise, and the bounds of the two buffers
(10_state.md R27, R28). -/

namespace Sys2Proof.Machine

/-! ### The walk's symbols and errors -/

/-- A walk holds no more symbols than OBUF takes (R28), and a raise of it records an error (R220). -/
def WalkStep.Sound : WalkStep → Prop
  | .running w => w.obuf.length ≤ Config.obufCap
  | .returned w => w.obuf.length ≤ Config.obufCap
  | .failed w code _ _ => w.obuf.length ≤ Config.obufCap ∧ code ≠ .noError

theorem storeSymbol_sound (env : WalkEnv) (x : Sym) {w : Walk} (hw : w.obuf.length ≤ Config.obufCap) :
    (storeSymbol env x w).Sound := by
  by_cases hcap : env.cap = some w.obuf.length
  · rw [storeSymbol_capacity x hcap]
    exact ⟨hw, by simp⟩
  · by_cases hfull : w.obuf.length = Config.obufCap
    · rw [storeSymbol_full x hcap hfull]
      exact ⟨hw, by simp⟩
    · rw [storeSymbol_room x hcap hfull]
      simp only [WalkStep.Sound, List.length_append, List.length_singleton]
      omega

theorem walkBit_sound (env : WalkEnv) {w : Walk} (b : Bool) (hw : w.obuf.length ≤ Config.obufCap) :
    (walkBit env w b).Sound := by
  unfold walkBit
  split
  · exact ⟨hw, by simp⟩
  · split
    · split
      · exact hw
      · exact storeSymbol_sound env _ hw
    · exact hw
    · exact hw

theorem walkBits_sound (env : WalkEnv) {w : Walk} (bits : List Bool) (hw : w.obuf.length ≤ Config.obufCap) :
    (walkBits env w bits).Sound := by
  induction bits generalizing w with
  | nil => exact hw
  | cons b bits ih =>
    have hb := walkBit_sound env b hw
    simp only [walkBits]
    split <;> rename_i hstep <;> rw [hstep] at hb
    · exact ih hb
    · exact hb
    · exact hb

theorem walkStart_room (root : Handle) : (Walk.start root).obuf.length ≤ Config.obufCap := Nat.zero_le _

section
variable {ok : Engine → Prop} {raised : Engine → ErrCode → Prop}

/-- How a decode ends: it leaves the symbols of its walk in OBUF, no more than OBUF takes. -/
theorem finishWalk_ends {s : State} {onEnd : Walk → State → Result} {r : WalkStep} (hr : r.Sound)
    (hok : ∀ w : Walk, w.obuf.length ≤ Config.obufCap → ok (s.keepWalk w).eng)
    (hraised : ∀ (w : Walk) (code : ErrCode), w.obuf.length ≤ Config.obufCap → code ≠ .noError →
      raised (s.keepWalk w).eng code)
    (hend : ∀ w : Walk, w.obuf.length ≤ Config.obufCap → (onEnd w (s.keepWalk w)).Ends ok raised) :
    (finishWalk s onEnd r).Ends ok raised := by
  cases r with
  | running w => exact hend w hr
  | returned w => exact hok w hr
  | failed w code i0 i1 => exact hraised w code hr.1 hr.2

/-- A decoder leaves the engine as it was but for OBUF and the counters, at every end. -/
theorem decodeBbBody_ends {s : State}
    (hok : ∀ w : Walk, w.obuf.length ≤ Config.obufCap → ok (s.keepWalk w).eng)
    (hraised : ∀ (w : Walk) (code : ErrCode), w.obuf.length ≤ Config.obufCap → code ≠ .noError →
      raised (s.keepWalk w).eng code) : (decodeBbBody s).Ends ok raised :=
  finishWalk_ends (walkBits_sound _ _ (walkStart_room _)) hok hraised
    (fun w hw => hraised w .truncation hw (by simp))

theorem decodeStreamBody_ends {s : State} {cap : BitVec 32}
    (hok : ∀ (k : Nat) (w : Walk), w.obuf.length ≤ Config.obufCap → ok ((s.readIn k).keepWalk w).eng)
    (hraised : ∀ (k : Nat) (w : Walk) (code : ErrCode), w.obuf.length ≤ Config.obufCap → code ≠ .noError →
      raised ((s.readIn k).keepWalk w).eng code) : (decodeStreamBody cap s).Ends ok raised := by
  unfold decodeStreamBody
  refine finishWalk_ends ?_ (hok _) (hraised _) (fun w hw => atEndOfIn_ends (hraised _ w .truncation hw (by simp)))
  rw [walkBytes_fst]
  exact walkBits_sound _ _ (walkStart_room _)

end

/-! ### The encoder's bits -/

/-- R170: the encoder appends no more bits than there is room for. -/
theorem encodeText_bits_length (ct : CodeTable) (room j : Nat) (text : List Sym) :
    (encodeText ct room j text).bits.length ≤ room := by
  induction text generalizing room j with
  | nil => exact Nat.zero_le _
  | cons x text ih =>
    unfold encodeText
    split
    · exact Nat.zero_le _
    · rename_i path _
      split
      · have := ih (room - path.length) (j + 1)
        simp only [List.length_append]
        omega
      · simp

/-- How ENCODE ends: it leaves bits that fit in the buffer and changes the counters, at a raise and at its last line. -/
theorem encodeBody_ends {ok : Engine → Prop} {raised : Engine → ErrCode → Prop} {s : State} {n : BitVec 32}
    (hok : ∀ (bits : List Bool) (oc sc : Reg), bits.length ≤ Config.bbCapBits →
      ok { s.eng with bb := bits, outCount := oc, symCount := sc })
    (hraised : ∀ (bits : List Bool) (sc : Reg) (code : ErrCode), bits.length ≤ Config.bbCapBits → code ≠ .noError →
      raised { s.eng with bb := bits, symCount := sc } code) :
    (encodeBody n s).Ends ok raised := by
  have hbits := encodeText_bits_length s.eng.ct Config.bbCapBits 0 (s.symIn.units.take (countOf n))
  unfold encodeBody
  dsimp only
  split
  · exact hraised _ _ .alphabet hbits (by simp)
  · exact hraised _ _ .resource hbits (by simp)
  · split
    · exact atEndOfSym_ends (hraised _ _ .truncation hbits (by simp))
    · unfold encodeFinish
      dsimp only
      split
      · exact hok _ _ _ ‹_›
      · exact hraised _ _ .resource (List.length_take_le _ _) (by simp)

/-! ### The ends of the two commands that make a tree -/

/-- How BUILD ends: with the tree of its leaves where a present symbol differs from TERM, else with the tree cleared
(R123, R125). -/
theorem buildBody_ends {ok : Engine → Prop} {raised : Engine → ErrCode → Prop} {s : State}
    (hok : (∃ x, x ≠ s.eng.term ∧ s.eng.freqV x = true) →
      ok ({ s.eng.clearTree with synTerm := false }.installTree (leafCounts s.eng.freq s.eng.term)
        (!(s.eng.freqV s.eng.term)) (terminatorCount s.eng.freq s.eng.term)))
    (hraised : raised { s.eng.clearTree with synTerm := false } .emptyAlphabet) : (buildBody s).Ends ok raised := by
  unfold buildBody
  dsimp only
  split
  · rename_i hany
    obtain ⟨⟨x, c⟩, hmem, hne⟩ := List.any_eq_true.1 hany
    obtain ⟨y, -, hy⟩ := List.mem_filterMap.1 hmem
    obtain ⟨c', hc, hpair⟩ := Option.map_eq_some_iff.1 hy
    cases hpair
    exact hok ⟨x, by simpa using hne, Option.isSome_iff_exists.2 ⟨c, hc⟩⟩
  · exact hraised

/-- How TABLE_IMPORT ends: with the tree of the text it staged, or at a raise with the tree cleared, before staging or
after it (R150, R154, R159). -/
theorem tableImportBody_ends {ok : Engine → Prop} {raised : Engine → ErrCode → Prop} {n : BitVec 32} {s : State}
    (hok : ∀ (bits : List Bool) (ic : Reg) (t : Rebuild), bits.length ≤ Config.bbCapBits →
      importText s.eng.term (packBytes bits) = .ok t →
      ok ({ s.eng.clearTree with synTerm := false, bb := bits, inCount := ic }.installImport t))
    (hlong : raised { s.eng.clearTree with synTerm := false } .resource)
    (hraised : ∀ (bits : List Bool) (ic : Reg) (code : ErrCode), bits.length ≤ Config.bbCapBits → code ≠ .noError →
      raised { s.eng.clearTree with synTerm := false, bb := bits, inCount := ic } code) :
    (tableImportBody n s).Ends ok raised := by
  have hfits : ∀ got : List Byte, 8 * got.length ≤ Config.bbCapBits →
      (bytesToBits got).length ≤ Config.bbCapBits := fun got hgot => by rwa [bytesToBits_length]
  refine loadBuffer_ends hlong (fun got hgot => hraised _ _ _ (hfits got hgot) (by simp)) (fun got hgot => ?_)
  unfold importStaged
  split
  · exact hok _ _ _ (hfits got hgot) ‹_›
  · exact hraised _ _ .corruptTable (hfits got hgot) (by simp)
  · exact hraised _ _ .resource (hfits got hgot) (by simp)

/-! ### What each body writes, and what it raises -/

/-- `RaisesWith` where a body writes the buffer at a raise. -/
theorem buffer_raises {e : Engine} {parts : List Part} (hb : Part.buffer ∈ parts) (bits : List Bool)
    (ic oc sc : Reg) {code : ErrCode} (hcode : code ≠ .noError) :
    RaisesWith parts e { e with bb := bits, inCount := ic, outCount := oc, symCount := sc } code :=
  ⟨buffer_keeps hb bits ic oc sc, rfl, hcode⟩

theorem unchanged_raises (e : Engine) (parts : List Part) {code : ErrCode} (hcode : code ≠ .noError) :
    RaisesWith parts e e code := ⟨keepsBut_refl e parts, rfl, hcode⟩

theorem buildBody_frame (s : State) :
    (buildBody s).Ends (s.eng.KeepsBut (writes .build)) (RaisesWith (writes .build) s.eng) := by
  refine buildBody_ends (fun _ p hp => ?_) ⟨fun p hp => ?_, rfl, by simp⟩
  · cases p <;> simp_all [Engine.Agrees, writes, Engine.installTree]
  · cases p <;> simp_all [Engine.Agrees, writes]

theorem tableImportBody_frame (n : BitVec 32) (s : State) :
    (tableImportBody n s).Ends (s.eng.KeepsBut (writes (.tableImport n)))
      (RaisesWith (writes (.tableImport n)) s.eng) := by
  refine tableImportBody_ends (fun bits ic t _ _ p hp => ?_) ⟨fun p hp => ?_, rfl, by simp⟩
    (fun bits ic code _ hcode => ⟨fun p hp => ?_, rfl, hcode⟩) <;>
  cases p <;> simp_all [Engine.Agrees, writes]

theorem ctReadBody_frame (x : Sym) (s : State) :
    (ctReadBody x s).Ends (s.eng.KeepsBut (writes (.ctRead x))) (RaisesWith (writes (.ctRead x)) s.eng) := by
  unfold ctReadBody
  split
  · exact unchanged_raises _ _ (by simp)
  · intro p hp
    cases p <;> simp_all [Engine.Agrees, writes]

theorem bbAppendBody_frame (b : Bool) (s : State) :
    (bbAppendBody b s).Ends (s.eng.KeepsBut (writes (.bbAppend b))) (RaisesWith (writes (.bbAppend b)) s.eng) := by
  unfold bbAppendBody
  split
  · exact unchanged_raises _ _ (by simp)
  · exact buffer_keeps List.mem_cons_self _ _ _ _

theorem bbGetBody_frame (n : BitVec 32) (s : State) :
    (bbGetBody n s).Ends (s.eng.KeepsBut (writes (.bbGet n))) (RaisesWith (writes (.bbGet n)) s.eng) := by
  unfold bbGetBody
  split
  · exact unchanged_raises _ _ (by simp)
  · intro p hp
    cases p <;> simp_all [Engine.Agrees, writes]

/-- A body writes the parts `writes` lists and the counters, and a raise leaves RESULT as it was. -/
theorem commandBody_frame (i : Instr) (s : State) :
    (commandBody i s).Ends (s.eng.KeepsBut (writes i)) (RaisesWith (writes i) s.eng) := by
  have hnoTree : RaisesWith (writes i) s.eng s.eng .noTree := unchanged_raises _ _ (by simp)
  cases i with
  | nop | reset | errAck => exact keepsBut_refl _ _
  | setTerm | freqClear | freqSet =>
    intro p hp
    cases p <;> simp_all [Engine.Agrees, writes]
  | build => exact buildBody_frame s
  | tableExport =>
    exact needTree_ends (body := fun s => .ok (s.writeOut (exportText s.eng.ct))) hnoTree
      (fun _ => counters_keep _ _ _ _ _)
  | tableImport n => exact tableImportBody_frame n s
  | ctRead x => exact needTree_ends hnoTree (fun _ => ctReadBody_frame x s)
  | encode n =>
    exact needTree_ends hnoTree (fun _ => encodeBody_ends (fun bits oc sc _ => buffer_keeps List.mem_cons_self _ _ _ _)
      (fun bits sc code _ hcode => buffer_raises List.mem_cons_self _ _ _ _ hcode))
  | decodeBb =>
    exact needTree_ends hnoTree (fun _ => decodeBbBody_ends (fun w _ => obuf_keeps List.mem_cons_self _ _ _)
      (fun w code _ hcode => ⟨obuf_keeps List.mem_cons_self _ _ _, rfl, hcode⟩))
  | decodeStream cap =>
    exact needTree_ends hnoTree (fun _ => decodeStreamBody_ends (fun k w _ => obuf_keeps List.mem_cons_self _ _ _)
      (fun k w code _ hcode => ⟨obuf_keeps List.mem_cons_self _ _ _, rfl, hcode⟩))
  | bbClear => exact buffer_keeps List.mem_cons_self _ _ _ _
  | bbAppend b => exact bbAppendBody_frame b s
  | bbGet n => exact bbGetBody_frame n s
  | bbEmit => exact counters_keep _ _ _ _ _
  | bbLoad n =>
    exact loadBuffer_ends (unchanged_raises _ _ (by simp))
      (fun got _ => buffer_raises List.mem_cons_self _ _ _ _ (by simp))
      (fun got _ => buffer_keeps List.mem_cons_self _ _ _ _)

end Sys2Proof.Machine
end

section
/-! Which commands may write which registers, the step of one decoded descriptor, and the register port (10_state.md R21 to
R38). -/

namespace Sys2Proof.Machine

/-- Everything a command other than RESET and ERR_ACK can do to the engine: it was dropped and set DROP, or it wrote its
own parts and the counters, or it raised after that. -/
theorem exec_next_cases {i : Instr} {s t : State} (h : exec i s = .next t) (hreset : i ≠ .reset) (hack : i ≠ .errAck) :
    (s.eng.err = true ∧ t.eng = s.eng.markDropped) ∨
    (s.eng.err = false ∧ s.eng.KeepsBut (writes i) t.eng) ∨
    (s.eng.err = false ∧ ∃ e code i0 i1, RaisesWith (writes i) s.eng e code ∧
      t.eng = e.enterError (opcode i) code i0 i1) := by
  have hframe := commandBody_frame i (s.setEng s.eng.zeroCounters)
  rw [exec_eq_runCommand hreset hack] at h
  obtain ⟨herr, rfl⟩ | ⟨herr, hok⟩ | ⟨herr, u, code, i0, i1, hraise, rfl⟩ := runCommand_next h
  · exact .inl ⟨herr, rfl⟩
  · rw [hok] at hframe
    exact .inr (.inl ⟨herr, hframe⟩)
  · rw [hraise] at hframe
    exact .inr (.inr ⟨herr, u.eng, code, i0, i1, hframe, rfl⟩)

/-- A part that a command does not write stays as it was, whether the command is dropped, raises or ends. -/
theorem exec_keeps {i : Instr} {s t : State} (h : exec i s = .next t) (hreset : i ≠ .reset) (hack : i ≠ .errAck)
    {p : Part} (hp : p ∉ writes i) (herrors : p ≠ .errors) : s.eng.Agrees t.eng p := by
  obtain ⟨-, ht⟩ | ⟨-, hkeep⟩ | ⟨-, e, code, i0, i1, ⟨hkeep, -, -⟩, ht⟩ := exec_next_cases h hreset hack
  · exact ht ▸ markDropped_keeps herrors
  · exact hkeep p hp
  · exact ht ▸ (hkeep p hp).trans (enterError_keeps herrors ..)

/-- RESULT changes in no command that is dropped or raises (R32). -/
theorem exec_result_of_err {i : Instr} {s t : State} (h : exec i s = .next t) (hreset : i ≠ .reset) (hack : i ≠ .errAck)
    (herr : t.eng.err = true) : t.eng.result = s.eng.result := by
  obtain ⟨-, ht⟩ | ⟨hno, hkeep⟩ | ⟨-, e, code, i0, i1, ⟨-, hres, -⟩, ht⟩ := exec_next_cases h hreset hack
  · rw [ht, Engine.markDropped_result]
  · obtain ⟨hsame, -⟩ := hkeep .errors (errors_notMem_writes i)
    rw [hno, herr] at hsame
    cases hsame
  · rw [ht, Engine.enterError_result, hres]

/-- Settles O54: a part not among those the command writes is kept, and RESULT is kept where the command raises. -/
theorem writersOfTermFreqAndResult : Obligations.WritersOfTermFreqAndResult := by
  intro s t i h hreset
  by_cases hack : i = .errAck
  · subst hack
    cases h
    simp
  · refine ⟨fun hterm => ?_, fun hset hclear => ?_, ?_⟩
    · exact exec_keeps (p := .term) h hreset hack (by cases i <;> simp_all [writes]) (by simp)
    · exact exec_keeps (p := .freq) h hreset hack (by cases i <;> simp_all [writes]) (by simp)
    · rintro (⟨hget, hread, hbuild⟩ | herr)
      · exact exec_keeps (p := .result) h hreset hack (by cases i <;> simp_all [writes]) (by simp)
      · exact exec_result_of_err h hreset hack herr

/-- Settles O55: no body writes the error registers, so they change by error entry alone; the tree's state and the buffer
are parts that the other commands do not write. -/
theorem writersOfErrorsTreeAndBuffer : Obligations.WritersOfErrorsTreeAndBuffer := by
  intro s t i h hreset hack
  refine ⟨?_, fun hbuild himport hterm => ?_, fun hclear happend hload himport hread hencode => ?_⟩
  · obtain ⟨-, ht⟩ | ⟨-, hkeep⟩ | ⟨hno, e, code, i0, i1, ⟨-, -, hcode⟩, ht⟩ := exec_next_cases h hreset hack
    · simp [ht]
    · obtain ⟨herr, -, hcode, hop, h0, h1⟩ := hkeep .errors (errors_notMem_writes i)
      exact .inl ⟨herr, hcode, hop, h0, h1⟩
    · exact .inr ⟨hno, by simp [ht], by simp [ht], by simpa [ht] using hcode⟩
  · exact exec_keeps (p := .tree) h hreset hack (by cases i <;> simp_all [writes]) (by simp)
  · exact exec_keeps (p := .buffer) h hreset hack (by cases i <;> simp_all [writes]) (by simp)

/-- Settles O7: the next move is the descriptor, which the command port decodes. -/
theorem stepRunsDecodedCommand : Obligations.StepRunsDecodedCommand := by
  intro s d i rest hhost hdecode
  simp [step, nextMove, hhost, hostMove, issue, hdecode]

/-- STATUS as a number: a bit for each flag (R30). -/
theorem status_eq (e : Engine) : e.status =
    BitVec.ofNat 64 (e.err.toNat + 2 * e.drop.toNat + 4 * e.treeValid.toNat + 8 * e.synTerm.toNat) := by
  unfold Engine.status
  cases e.err <;> cases e.drop <;> cases e.treeValid <;> cases e.synTerm <;> rfl

/-- R36: an offset that names no register reads 0. -/
theorem readReg_unnamed (e : Engine) {o : Nat} (ho : o % 8 ≠ 0 ∨ 0x88 < o) : readReg e o = 0#64 := by
  unfold readReg
  split
  case h_19 => rfl
  all_goals omega

/-- Settles O13: each named offset by the definition of its register, STATUS by its flags, and no other offset is named. -/
theorem registerPort : Obligations.RegisterPort := by
  intro e
  refine ⟨status_eq e, rfl, rfl, rfl, rfl, rfl, rfl, rfl, rfl, rfl, rfl, rfl, rfl, rfl, rfl, rfl, rfl, rfl,
    fun o ho => readReg_unnamed e ho, ?_⟩
  simp [errNumber]

end Sys2Proof.Machine
end

section
/-! The registers' invariant, kept by every step: the two buffers stay in bounds, the error registers agree with ERR, and
without a tree the tree's state is cleared (10_state.md R24, R27, R28, R31). -/

namespace Sys2Proof.Machine

/-! ### What one step does to the engine -/

theorem Result.Ends.at_op {P : Engine → Prop} {op : BitVec 8} {r : Result}
    (h : r.Ends P (fun e code => ∀ op i0 i1, P (e.enterError op code i0 i1))) :
    r.Ends P (fun e code => ∀ i0 i1, P (e.enterError op code i0 i1)) :=
  h.imp (fun _ he => he) (fun _ _ he => he op)

/-- A property that reset meets, that dropping, acknowledgement and ILLEGAL keep, and that every body keeps through error
entry, is kept by every step. -/
theorem step_keeps {P : Engine → Prop} {s t : State} (h : step s = .next t) (hs : P s.eng)
    (hreset : P Engine.reset) (hack : P s.eng.zeroCounters.ackError) (hdrop : s.eng.err = true → P s.eng.markDropped)
    (hillegal : ∀ op i0 i1, P (s.eng.zeroCounters.enterError op .illegal i0 i1))
    (hbody : ∀ d i rest u, s.host = .command d :: rest → decode d = .ok i → u.eng = s.eng.zeroCounters →
      s.eng.err = false →
      (commandBody i u).Ends P (fun e code => ∀ op i0 i1, P (e.enterError op code i0 i1))) : P t.eng := by
  unfold step nextMove at h
  split at h
  · cases h
    exact hs
  · rename_i a rest hhost
    cases a with
    | command d =>
      simp only [hostMove, issue] at h
      split at h
      · rename_i i hdecode
        by_cases hr : i = .reset
        · subst hr
          cases h
          exact hreset
        by_cases ha : i = .errAck
        · subst ha
          cases h
          exact hack
        rw [exec_eq_runCommand hr ha] at h
        exact runCommand_keeps h hdrop (fun herr => (hbody d i rest _ hhost hdecode rfl herr).at_op)
      · exact runCommand_keeps h hdrop (fun _ => hillegal _)
    | assertReset =>
      cases h
      exact hreset
    | supplyIn | supplySym | readRegister | consumeIn =>
      cases h
      exact hs

/-- A property of a part that the body does not write holds at each of its ends. -/
theorem commandBody_keeps_part {i : Instr} {p : Part} {P : Engine → Prop} {s : State} (hp : p ∉ writes i)
    (hP : ∀ e, s.eng.Agrees e p → P e) : (commandBody i s).Ends P (fun e _ => P e) :=
  (commandBody_frame i s).imp (fun e h => hP e (h p hp)) (fun e _ h => hP e (h.1 p hp))

/-- A property that error entry keeps, at both ends of a body. -/
theorem Result.Ends.enterError {P : Engine → Prop} {r : Result} (h : r.Ends P (fun e _ => P e))
    (hP : ∀ e op code i0 i1, P e → P (e.enterError op code i0 i1)) :
    r.Ends P (fun e code => ∀ op i0 i1, P (e.enterError op code i0 i1)) :=
  h.imp (fun _ he => he) (fun e code he op i0 i1 => hP e op code i0 i1 he)

/-! ### The tree invariant depends on the tree's state and TERM -/

/-- What R26 says of an engine is said of its tree's state and TERM alone. -/
theorem treeInvariant_of_agrees {e e' : Engine} (htree : e.Agrees e' .tree) (hterm : e.Agrees e' .term)
    (h : e.TreeInvariant) : e'.TreeInvariant := by
  cases e
  cases e'
  obtain ⟨hnodes, hroot, hct, hvalid, -, hbytes⟩ := htree
  dsimp only [Engine.Agrees] at hnodes hroot hct hvalid hbytes hterm
  subst hnodes hroot hct hvalid hbytes hterm
  intro hv
  have hU := h hv
  exact ⟨hU.rootInternal, hU.pathEndsAtLeaf, hU.codesAreLeaves, hU.leavesDiffer, hU.prefixFree, hU.termHasCode,
    hU.pathLengths, hU.arenaBounded, hU.onePath, hU.linksAllocated, hU.tblBytes⟩

/-! ### The bit buffer (R27) -/

theorem bbAppendBody_bufferBounded {b : Bool} {s : State} (hb : s.eng.BufferBounded) :
    (bbAppendBody b s).Ends Engine.BufferBounded (fun e _ => e.BufferBounded) := by
  unfold bbAppendBody
  by_cases hfull : Config.bbCapBits ≤ s.eng.bb.length
  · rw [appendBit_full b hfull]
    exact hb
  · rw [appendBit_room b (Nat.lt_of_not_le hfull)]
    show (s.eng.bb ++ [b]).length ≤ Config.bbCapBits
    rw [List.length_append, List.length_singleton]
    omega

/-- R144, R25: a path that CT_READ puts into the buffer fits. -/
theorem ctReadBody_bufferBounded {x : Sym} {s : State} (hb : s.eng.BufferBounded) (hT : s.eng.UsableTree) :
    (ctReadBody x s).Ends Engine.BufferBounded (fun e _ => e.BufferBounded) := by
  unfold ctReadBody
  split
  · exact hb
  · rename_i path hpath
    have hlen := (hT.pathLengths x (by simp [Engine.ctV, hpath])).2
    simp only [Engine.ctLen, Engine.ctPath, hpath, Option.getD_some] at hlen
    exact hlen.trans (by decide)

theorem commandBody_bufferBounded (i : Instr) {s : State} (hb : s.eng.BufferBounded) (hT : s.eng.TreeInvariant) :
    (commandBody i s).Ends Engine.BufferBounded (fun e _ => e.BufferBounded) := by
  cases i with
  | tableImport n =>
    exact tableImportBody_ends (fun _ _ _ hbits _ => hbits) hb (fun _ _ _ hbits _ => hbits)
  | ctRead x => exact needTree_ends hb (fun hv => ctReadBody_bufferBounded hb (hT hv))
  | encode n =>
    exact needTree_ends hb (fun _ => encodeBody_ends (fun bits _ _ hbits => hbits) (fun bits _ _ hbits _ => hbits))
  | bbClear => exact Nat.zero_le _
  | bbAppend b => exact bbAppendBody_bufferBounded hb
  | bbLoad n =>
    have hloaded : ∀ got : List Byte, 8 * got.length ≤ Config.bbCapBits → (s.loaded got).eng.BufferBounded :=
      fun got hgot => (bytesToBits_length got).trans_le hgot
    exact loadBuffer_ends hb hloaded hloaded
  | _ => exact commandBody_keeps_part (p := .buffer) (by simp [writes]) (fun e he => by rwa [Engine.BufferBounded, he])

theorem step_bufferBounded {s t : State} (hb : s.eng.BufferBounded) (hT : s.eng.TreeInvariant) (h : step s = .next t) :
    t.eng.BufferBounded := by
  refine step_keeps h hb (Nat.zero_le _) hb (fun _ => hb) (fun _ _ _ => hb) (fun _ i _ u _ _ hu _ => ?_)
  have hTu : u.eng.TreeInvariant :=
    treeInvariant_of_agrees (hu ▸ s.eng.agrees_refl .tree) (hu ▸ s.eng.agrees_refl .term) hT
  exact (commandBody_bufferBounded i (hu ▸ hb) hTu).enterError (fun _ _ _ _ _ he => he)

/-! ### OBUF (R28) -/

theorem commandBody_obufBounded (i : Instr) {s : State} (ho : s.eng.ObufBounded) :
    (commandBody i s).Ends Engine.ObufBounded (fun e _ => e.ObufBounded) := by
  cases i with
  | decodeBb => exact needTree_ends ho (fun _ => decodeBbBody_ends (fun w hw => hw) (fun w _ hw _ => hw))
  | decodeStream cap =>
    exact needTree_ends ho (fun _ => decodeStreamBody_ends (fun k w hw => hw) (fun k w _ hw _ => hw))
  | _ => exact commandBody_keeps_part (p := .obuf) (by simp [writes]) (fun e he => by rwa [Engine.ObufBounded, he])

theorem step_obufBounded {s t : State} (ho : s.eng.ObufBounded) (h : step s = .next t) : t.eng.ObufBounded :=
  step_keeps h ho (Nat.zero_le _) ho (fun _ => ho) (fun _ _ _ => ho)
    (fun _ i _ _ _ _ hu _ => (commandBody_obufBounded i (hu ▸ ho)).enterError (fun _ _ _ _ _ he => he))

/-! ### The error registers (R31) -/

theorem enterError_errorRegisters (e : Engine) (op : BitVec 8) {code : ErrCode} (i0 i1 : Reg) (hcode : code ≠ .noError) :
    (e.enterError op code i0 i1).ErrorRegisters := ⟨by simp, fun _ => hcode⟩

theorem errorRegisters_of_agrees {e e' : Engine} (h : e.Agrees e' .errors) (he : e.ErrorRegisters) :
    e'.ErrorRegisters := by
  obtain ⟨herr, hdrop, hcode, hop, h0, h1⟩ := h
  unfold Engine.ErrorRegisters
  rwa [herr, hdrop, hcode, hop, h0, h1]

theorem step_errorRegisters {s t : State} (he : s.eng.ErrorRegisters) (h : step s = .next t) :
    t.eng.ErrorRegisters := by
  refine step_keeps h he (by simp [Engine.ErrorRegisters, Engine.reset]) (by simp [Engine.ErrorRegisters])
    (fun herr => ?_) (fun _ _ _ => enterError_errorRegisters _ _ _ _ (by simp)) (fun _ i _ u _ _ hu _ => ?_)
  · exact ⟨by simp [herr], he.2⟩
  · refine (commandBody_frame i u).imp (fun e hkeep => ?_) (fun e code hraise op i0 i1 => ?_)
    · exact errorRegisters_of_agrees (hkeep .errors (errors_notMem_writes i)) (hu ▸ he)
    · exact enterError_errorRegisters e op i0 i1 hraise.2.2

/-! ### Without a tree (R24, R30) -/

/-- R24: clearing the tree gives each register of "tree cleared" its value. -/
theorem clearTree_treeCleared (e : Engine) : e.clearTree.TreeCleared :=
  ⟨rfl, rfl, rfl, rfl, fun x => by simp [Engine.ctV], fun _ => rfl⟩

/-- "Tree cleared" is said of the tree's state alone. -/
theorem clearedWithoutTree_of_agrees {e e' : Engine} (h : e.Agrees e' .tree) (he : e.ClearedWithoutTree) :
    e'.ClearedWithoutTree := by
  obtain ⟨hnodes, hroot, hct, hvalid, hsyn, hbytes⟩ := h
  unfold Engine.ClearedWithoutTree Engine.TreeCleared Engine.nleaves Engine.nnodes Engine.ctV Engine.kindAt
  rwa [hnodes, hroot, hct, hvalid, hsyn, hbytes]

/-- Every end of a body that clears the tree and then fails, or clears it for good. -/
theorem clearedWithoutTree_of_clearTree {e e' : Engine} (h : { e.clearTree with synTerm := false }.Agrees e' .tree) :
    e'.ClearedWithoutTree :=
  clearedWithoutTree_of_agrees h (fun _ => ⟨clearTree_treeCleared e, rfl⟩)

theorem commandBody_clearedWithoutTree (i : Instr) {s : State} (hc : s.eng.ClearedWithoutTree) :
    (commandBody i s).Ends Engine.ClearedWithoutTree (fun e _ => e.ClearedWithoutTree) := by
  cases i with
  | setTerm x => exact clearedWithoutTree_of_clearTree (e := s.eng) (by simp [Engine.Agrees])
  | build =>
    exact buildBody_ends (fun _ hno => absurd hno (by simp [Engine.installTree]))
      (clearedWithoutTree_of_clearTree (Engine.agrees_refl _ _))
  | tableImport n =>
    exact tableImportBody_ends (fun _ _ _ _ _ hno => absurd hno (by simp))
      (clearedWithoutTree_of_clearTree (Engine.agrees_refl _ _))
      (fun _ _ _ _ _ => clearedWithoutTree_of_clearTree (e := s.eng) (by simp [Engine.Agrees]))
  | _ => exact commandBody_keeps_part (p := .tree) (by simp [writes]) (fun e he => clearedWithoutTree_of_agrees he hc)

theorem step_clearedWithoutTree {s t : State} (hc : s.eng.ClearedWithoutTree) (h : step s = .next t) :
    t.eng.ClearedWithoutTree :=
  step_keeps h hc (fun _ => ⟨clearTree_treeCleared Engine.reset, rfl⟩) hc (fun _ => hc) (fun _ _ _ => hc)
    (fun _ i _ _ _ _ hu _ => (commandBody_clearedWithoutTree i (hu ▸ hc)).enterError (fun _ _ _ _ _ he => he))

/-- Settles O58: each of the four parts of the registers' invariant is kept by every step. -/
theorem stepKeepsSoundRegisters : Obligations.StepKeepsSoundRegisters := by
  rintro s t ⟨hbuffer, hobuf, herrors, hcleared⟩ hT h
  exact ⟨step_bufferBounded hbuffer hT h, step_obufBounded hobuf h, step_errorRegisters herrors h,
    step_clearedWithoutTree hcleared h⟩

end Sys2Proof.Machine
end

section
/-! The arena as a tree: one path to each allocated record, the code table as the leaves' paths, and from these R26's
invariant (10_state.md R23 to R26, R33). -/

namespace Sys2Proof.Machine

/-! ### One descent -/

theorem nextNode_internal {nodes : List Node} {h : Handle} {l r : Option Handle}
    (hh : nodes[h]? = some (.internal l r)) (b : Bool) : nextNode nodes h b = childOf l r b := by
  simp [nextNode, hh]

theorem nextNode_leaf {nodes : List Node} {h : Handle} {x : Sym} (hh : nodes[h]? = some (.leaf x)) (b : Bool) :
    nextNode nodes h b = none := by
  simp [nextNode, hh]

theorem nextNode_free {nodes : List Node} {h : Nat} (hh : nodes.length ≤ h) (b : Bool) :
    nextNode nodes h b = none := by
  simp [nextNode, List.getElem?_eq_none hh]

/-- Only an allocated record has children. -/
theorem lt_length_of_nextNode {nodes : List Node} {h c : Nat} {b : Bool} (hn : nextNode nodes h b = some c) :
    h < nodes.length := by
  by_contra hh
  rw [nextNode_free (Nat.le_of_not_lt hh)] at hn
  cases hn

theorem exists_nextNode_of_link {nodes : List Node} {h c : Handle} {l r : Option Handle}
    (hh : nodes[h]? = some (.internal l r)) (hc : l = some c ∨ r = some c) : ∃ b, nextNode nodes h b = some c := by
  obtain hl | hr := hc
  · exact ⟨false, (nextNode_internal hh false).trans hl⟩
  · exact ⟨true, (nextNode_internal hh true).trans hr⟩

/-- A walk in an arena is a walk in every arena that has its links. -/
theorem walkPath_mono {nodes nodes' : List Node}
    (hlinks : ∀ g b c, nextNode nodes g b = some c → nextNode nodes' g b = some c) {h c : Handle} {p : Path}
    (hp : walkPath nodes h p = some c) : walkPath nodes' h p = some c := by
  induction p generalizing h with
  | nil => exact hp
  | cons b p ih =>
    obtain ⟨d, hd, hp⟩ := walkPath_cons.1 hp
    exact walkPath_cons.2 ⟨d, hlinks _ _ _ hd, ih hp⟩

/-! ### Paths to leaves -/

/-- The path leads from record `h` to a leaf that holds `x`. -/
def LeadsTo (nodes : List Node) (h : Handle) (p : Path) (x : Sym) : Prop :=
  ∃ c, walkPath nodes h p = some c ∧ nodes[c]? = some (.leaf x)

theorem leadsTo_nil {nodes : List Node} {h : Handle} {x : Sym} :
    LeadsTo nodes h [] x ↔ nodes[h]? = some (.leaf x) := by
  simp [LeadsTo, walkPath]

theorem leadsTo_cons {nodes : List Node} {h : Handle} {b : Bool} {p : Path} {x : Sym} :
    LeadsTo nodes h (b :: p) x ↔ ∃ d, nextNode nodes h b = some d ∧ LeadsTo nodes d p x := by
  simp only [LeadsTo, walkPath_cons]
  constructor
  · rintro ⟨c, ⟨d, hd, hp⟩, hc⟩
    exact ⟨d, hd, c, hp, hc⟩
  · rintro ⟨d, hd, c, hp, hc⟩
    exact ⟨c, ⟨d, hd, hp⟩, hc⟩

/-- No walk goes on from a leaf. -/
theorem walkPath_leaf {nodes : List Node} {h c : Handle} {x : Sym} {p : Path} (hh : nodes[h]? = some (.leaf x))
    (hp : walkPath nodes h p = some c) : p = [] := by
  cases p with
  | nil => rfl
  | cons b p =>
    obtain ⟨d, hd, -⟩ := walkPath_cons.1 hp
    rw [nextNode_leaf hh] at hd
    cases hd

/-! ### Rooted trees -/

/-- R23, R24: the links form a tree from `root` that spans the allocated records. -/
structure RootedTree (nodes : List Node) (root : Handle) : Prop where
  rootOrphan : ∀ g b, nextNode nodes g b ≠ some root
  linked : ∀ {g b} {c : Nat}, nextNode nodes g b = some c → c < nodes.length
  oneParent : ∀ {g b g' b' c}, nextNode nodes g b = some c → nextNode nodes g' b' = some c → g = g' ∧ b = b'
  reached : ∀ {c : Nat}, c < nodes.length → ∃ p, walkPath nodes root p = some c

/-- A tree is a tree of its links and its length. -/
theorem RootedTree.congr {nodes nodes' : List Node} {root : Handle} (hR : RootedTree nodes root)
    (hlinks : nextNode nodes' = nextNode nodes) (hlen : nodes'.length = nodes.length) : RootedTree nodes' root where
  rootOrphan := hlinks ▸ hR.rootOrphan
  linked := by
    rw [hlinks, hlen]
    exact hR.linked
  oneParent := by
    rw [hlinks]
    exact hR.oneParent
  reached := by
    intro c hc
    obtain ⟨p, hp⟩ := hR.reached (hlen ▸ hc)
    exact ⟨p, walkPath_mono (fun g b d => by rw [hlinks]; exact id) hp⟩

/-- In a tree at most one path leads to a record: its last descent is the one link to the record. -/
theorem RootedTree.path_unique {nodes : List Node} {root c : Handle} (hR : RootedTree nodes root) {p q : Path}
    (hp : walkPath nodes root p = some c) (hq : walkPath nodes root q = some c) : p = q := by
  induction p using List.reverseRecOn generalizing c q with
  | nil =>
    cases hp
    obtain rfl | ⟨q, b, rfl⟩ := List.eq_nil_or_concat' q
    · rfl
    · obtain ⟨g, -, hg⟩ := walkPath_snoc.1 hq
      exact absurd hg (hR.rootOrphan g b)
  | append_singleton p b ih =>
    obtain ⟨g, hpg, hg⟩ := walkPath_snoc.1 hp
    obtain rfl | ⟨q, b', rfl⟩ := List.eq_nil_or_concat' q
    · cases hq
      exact absurd hg (hR.rootOrphan g b)
    · obtain ⟨g', hqg, hg'⟩ := walkPath_snoc.1 hq
      obtain ⟨rfl, rfl⟩ := hR.oneParent hg hg'
      rw [ih hpg hqg]

/-! ### The code table of a tree -/

/-- R26 (b), (c): the entries of the code table are the leaves' symbols with the paths that lead to them. -/
structure Coded (nodes : List Node) (root : Handle) (ct : CodeTable) : Prop where
  leads : ∀ {x p}, symGet ct x = some p → LeadsTo nodes root p x
  covers : ∀ {h x}, nodes[h]? = some (.leaf x) → ∃ p, symGet ct x = some p ∧ walkPath nodes root p = some h

/-- R26 (c): no two leaves hold the same symbol, as its one path leads to one record. -/
theorem Coded.leaf_unique {nodes : List Node} {root h h' : Handle} {ct : CodeTable} (hC : Coded nodes root ct) {x : Sym}
    (hh : nodes[h]? = some (.leaf x)) (hh' : nodes[h']? = some (.leaf x)) : h = h' := by
  obtain ⟨p, hp, hw⟩ := hC.covers hh
  obtain ⟨p', hp', hw'⟩ := hC.covers hh'
  cases hp.symm.trans hp'
  exact Option.some.inj (hw.symm.trans hw')

theorem Coded.isSome_iff {nodes : List Node} {root : Handle} {ct : CodeTable} (hC : Coded nodes root ct) {x : Sym} :
    (symGet ct x).isSome = true ↔ ∃ h : Handle, nodes[h]? = some (.leaf x) := by
  constructor
  · intro hsome
    obtain ⟨p, hp⟩ := Option.isSome_iff_exists.1 hsome
    obtain ⟨h, -, hh⟩ := hC.leads hp
    exact ⟨h, hh⟩
  · rintro ⟨h, hh⟩
    obtain ⟨p, hp, -⟩ := hC.covers hh
    exact Option.isSome_iff_exists.2 ⟨p, hp⟩

/-! ### The leaves, counted -/

/-- The symbol of a LEAF record. -/
def leafSym : Node → Option Sym
  | .leaf x => some x
  | .internal _ _ => none

@[simp] theorem leafSym_eq_some {r : Node} {x : Sym} : leafSym r = some x ↔ r = .leaf x := by
  cases r <;> simp [leafSym]

theorem countLeaves_eq (nodes : List Node) : countLeaves nodes = (nodes.filterMap leafSym).length := by
  rw [List.length_filterMap_eq_countP]
  exact congrArg (fun f => nodes.countP f) (funext fun r => by cases r <;> rfl)

theorem countLeaves_pos {nodes : List Node} {h : Handle} {x : Sym} (hh : nodes[h]? = some (.leaf x)) :
    0 < countLeaves nodes :=
  List.countP_pos_iff.2 ⟨.leaf x, List.mem_of_getElem? hh, rfl⟩

theorem mem_ctEntries_fst {ct : CodeTable} {x : Sym} :
    x ∈ (ctEntries ct).map Prod.fst ↔ (symGet ct x).isSome = true := by
  rw [Option.isSome_iff_exists, List.mem_map]
  constructor
  · rintro ⟨⟨y, p⟩, hmem, rfl⟩
    exact ⟨p, mem_ctEntries.1 hmem⟩
  · rintro ⟨p, hp⟩
    exact ⟨(x, p), mem_ctEntries.2 hp, rfl⟩

theorem ctEntries_fst_nodup (ct : CodeTable) : ((ctEntries ct).map Prod.fst).Nodup := by
  unfold ctEntries
  rw [List.map_filterMap]
  refine allSyms_nodup.filterMap ?_
  intro x y z hx hy
  simp only [Option.map_map, Option.mem_def, Option.map_eq_some_iff, Function.comp_apply] at hx hy
  obtain ⟨_, -, rfl⟩ := hx
  obtain ⟨_, -, rfl⟩ := hy
  rfl

theorem Coded.leafSyms_nodup {nodes : List Node} {root : Handle} {ct : CodeTable} (hC : Coded nodes root ct) :
    (nodes.filterMap leafSym).Nodup := by
  refine List.pairwise_filterMap.2 (List.pairwise_iff_getElem.2 ?_)
  rintro i j hi hj hij x hx y hy rfl
  rw [leafSym_eq_some] at hx hy
  exact absurd (hC.leaf_unique (List.getElem?_eq_some_iff.2 ⟨hi, hx⟩) (List.getElem?_eq_some_iff.2 ⟨hj, hy⟩))
    (Nat.ne_of_lt hij)

/-- NLEAVES is the number of code table entries. -/
theorem Coded.countLeaves {nodes : List Node} {root : Handle} {ct : CodeTable} (hC : Coded nodes root ct) :
    countLeaves nodes = (ctEntries ct).length := by
  have hperm : (nodes.filterMap leafSym).Perm ((ctEntries ct).map Prod.fst) := by
    refine (List.perm_ext_iff_of_nodup hC.leafSyms_nodup (ctEntries_fst_nodup ct)).2 (fun x => ?_)
    rw [mem_ctEntries_fst, hC.isSome_iff, List.mem_filterMap]
    simp [← List.mem_iff_getElem?]
  rw [countLeaves_eq, hperm.length_eq, List.length_map]

/-! ### The length of the table text (R143) -/

theorem joinEntries_length (texts : List (List Byte)) :
    (joinEntries texts).length = (texts.map List.length).sum + (texts.length - 1) := by
  induction texts with
  | nil => rfl
  | cons a texts ih =>
    cases texts with
    | nil => simp [joinEntries]
    | cons b rest =>
      simp only [joinEntries, List.length_append, List.length_cons, ih, List.map_cons, List.sum_cons]
      omega

theorem entryText_length (a : Sym × Path) : (entryText a).length = Config.charBytes + 1 + a.2.length := by
  simp [entryText, charText]
  omega

theorem exportText_length (ct : CodeTable) : (exportText ct).length = tableBytes ct (ctEntries ct).length := by
  simp [exportText, joinEntries_length, tableBytes, Function.comp_def, entryText_length]

/-! ### R26 -/

/-- R26 (a) to (e) for a tree with its code table, the bounds of R23 and R25, and R33. -/
theorem usableTree_of_coded {e : Engine} (hR : RootedTree e.nodes e.root) (hC : Coded e.nodes e.root e.ct)
    (hroot : ∃ l r, e.nodes[e.root]? = some (.internal l r)) (hterm : e.ctV e.term = true)
    (hlen : ∀ x p, symGet e.ct x = some p → p.length ≤ Config.maxcode) (hcap : e.nodes.length ≤ Config.nodeCap)
    (hbytes : e.tblBytes = BitVec.ofNat 64 (tableBytes e.ct (countLeaves e.nodes))) : e.UsableTree := by
  have hpath : ∀ {x p}, symGet e.ct x = some p → e.ctPath x = p := fun h => by simp [Engine.ctPath, h]
  refine ⟨kindAt_internal.2 hroot, fun h x hh => ?_, fun x => hC.isSome_iff, fun h h' x => hC.leaf_unique,
    fun x y hx hy hne hpre => ?_, hterm, fun x hx => ?_, hcap, fun h hh => ?_, fun h c l r hh hc => ?_, ?_⟩
  · obtain ⟨p, hp, hw⟩ := hC.covers hh
    rwa [hpath hp]
  · obtain ⟨p, hp⟩ := Option.isSome_iff_exists.1 hx
    obtain ⟨q, hq⟩ := Option.isSome_iff_exists.1 hy
    rw [hpath hp, hpath hq] at hpre
    obtain ⟨rest, rfl⟩ := hpre
    obtain ⟨h, hw, hh⟩ := hC.leads hp
    obtain ⟨h', hw', hh'⟩ := hC.leads hq
    rw [walkPath_append, hw] at hw'
    cases walkPath_leaf hh hw'
    cases hw'
    exact hne (Node.leaf.inj (Option.some.inj (hh.symm.trans hh')))
  · obtain ⟨p, hp⟩ := Option.isSome_iff_exists.1 hx
    have hne : p ≠ [] := by
      rintro rfl
      obtain ⟨l, r, hroot⟩ := hroot
      have hleaf := leadsTo_nil.1 (hC.leads hp)
      rw [hroot] at hleaf
      cases hleaf
    rw [Engine.ctLen, hpath hp]
    exact ⟨List.length_pos_of_ne_nil hne, hlen x p hp⟩
  · obtain ⟨p, hp⟩ := hR.reached hh
    exact ⟨p, hp, fun q hq => hR.path_unique hq hp⟩
  · obtain ⟨b, hb⟩ := exists_nextNode_of_link hh hc
    exact hR.linked hb
  · rw [hbytes, hC.countLeaves, exportText_length]

end Sys2Proof.Machine
end

section
/-! BUILD's tree: the merging of the queue keeps a forest whose roots are queued, so that it ends in one tree over the
leaves, and its code table holds the leaves' paths (41_tree_build.md R123 to R132). -/

namespace Sys2Proof.Machine

/-! ### The queue -/

theorem extractLeast_eq_none {q : List QItem} (h : extractLeast q = none) : q = [] := by
  cases q with
  | nil => rfl
  | cons x q =>
    unfold extractLeast at h
    split at h
    · cases h
    · split at h <;> cases h

/-- R127: the extraction removes one element and keeps the others. -/
theorem extractLeast_perm {q rest : List QItem} {m : QItem} (h : extractLeast q = some (m, rest)) :
    q.Perm (m :: rest) := by
  induction q generalizing m rest with
  | nil => cases h
  | cons x q ih =>
    unfold extractLeast at h
    split at h
    · rename_i hnone
      cases h
      rw [extractLeast_eq_none hnone]
    · rename_i m' rest' hsome
      split at h <;> cases h
      · exact (ih hsome).cons x
      · exact ((ih hsome).cons x).trans (.swap ..)

/-! ### The forest while BUILD runs -/

/-- R123's arena between two rounds: the leaves first, then records with two children of lower handles; no record is the
child of two, and the queue holds the records that are no child. -/
structure Merged (leaves : List Sym) (queue : List Handle) (nodes : List Node) : Prop where
  records : ∃ links : List (Handle × Handle),
    nodes = leaves.map Node.leaf ++ links.map (fun a => Node.internal (some a.1) (some a.2))
  below : ∀ {g c : Nat} {b}, nextNode nodes g b = some c → c < g
  oneParent : ∀ {g b g' b' c}, nextNode nodes g b = some c → nextNode nodes g' b' = some c → g = g' ∧ b = b'
  queued : ∀ {c : Nat}, c ∈ queue ↔ c < nodes.length ∧ ∀ g b, nextNode nodes g b ≠ some c
  queueNodup : queue.Nodup
  size : nodes.length + queue.length = 2 * leaves.length

theorem nextNode_leaves (leaves : List Sym) (g : Handle) (b : Bool) : nextNode (leaves.map Node.leaf) g b = none := by
  unfold nextNode
  split
  · rename_i hg
    rw [List.getElem?_map, Option.map_eq_some_iff] at hg
    obtain ⟨x, -, hx⟩ := hg
    cases hx
  · rfl
  · rfl

/-- R128: at the start every leaf is queued. -/
theorem merged_leaves (leaves : List Sym) : Merged leaves (List.range leaves.length) (leaves.map Node.leaf) where
  records := ⟨[], by simp⟩
  below := by simp [nextNode_leaves]
  oneParent := by simp [nextNode_leaves]
  queued := by simp [nextNode_leaves]
  queueNodup := List.nodup_range
  size := by simp [Nat.two_mul]

/-- A record made last is the only new parent. -/
theorem nextNode_snoc (nodes : List Node) (l r : Handle) (g : Handle) (d : Bool) :
    nextNode (nodes ++ [.internal (some l) (some r)]) g d =
      if g = nodes.length then some (if d then r else l) else nextNode nodes g d := by
  obtain hlt | rfl | hgt := Nat.lt_trichotomy g nodes.length
  · rw [if_neg (Nat.ne_of_lt hlt)]
    simp only [nextNode, List.getElem?_append_left hlt]
  · rw [if_pos rfl, nextNode_internal List.getElem?_concat_length]
    cases d <;> rfl
  · rw [if_neg (Nat.ne_of_gt hgt), nextNode_free (Nat.le_of_lt hgt), nextNode_free]
    simpa using hgt

/-- R123: a round takes two queued records, whose parent is then queued in their place. -/
theorem Merged.round {leaves : List Sym} {queue rest : List Handle} {nodes : List Node} {a b : Handle}
    (hM : Merged leaves queue nodes) (hperm : queue.Perm (a :: b :: rest)) :
    Merged leaves (nodes.length :: rest) (nodes ++ [.internal (some a) (some b)]) := by
  have hnodup := hperm.nodup_iff.1 hM.queueNodup
  simp only [List.nodup_cons, List.mem_cons, not_or] at hnodup
  obtain ⟨⟨hab, harest⟩, hbrest, hrest⟩ := hnodup
  have hmem : ∀ c, c ∈ queue ↔ c = a ∨ c = b ∨ c ∈ rest := fun c => by simp [hperm.mem_iff]
  obtain ⟨ha, haOrphan⟩ := hM.queued.1 ((hmem a).2 (.inl rfl))
  obtain ⟨hb, hbOrphan⟩ := hM.queued.1 ((hmem b).2 (.inr (.inl rfl)))
  have hnew : ∀ {g c : Nat} {d}, nextNode (nodes ++ [.internal (some a) (some b)]) g d = some c →
      (g = nodes.length ∧ c = if d then b else a) ∨ (g < nodes.length ∧ nextNode nodes g d = some c) := by
    intro g c d h
    rw [nextNode_snoc] at h
    split at h
    · exact .inl ⟨‹_›, (Option.some.inj h).symm⟩
    · exact .inr ⟨lt_length_of_nextNode h, h⟩
  have hchild : ∀ d : Bool, (if d then b else a) < nodes.length ∧
      ∀ g d', nextNode nodes g d' ≠ some (if d then b else a) := by
    intro d
    cases d
    · exact ⟨ha, haOrphan⟩
    · exact ⟨hb, hbOrphan⟩
  refine ⟨?_, fun h => ?_, fun h h' => ?_, fun {c} => ⟨fun hc => ?_, fun ⟨hc, horphan⟩ => ?_⟩, ?_, ?_⟩
  · obtain ⟨links, hlinks⟩ := hM.records
    exact ⟨links ++ [(a, b)], by simp [hlinks]⟩
  · obtain ⟨rfl, rfl⟩ | ⟨-, h⟩ := hnew h
    · exact (hchild _).1
    · exact hM.below h
  · obtain ⟨rfl, rfl⟩ | ⟨-, h⟩ := hnew h <;> obtain ⟨rfl, hc⟩ | ⟨-, h'⟩ := hnew h'
    · exact ⟨rfl, by grind⟩
    · exact absurd h' ((hchild _).2 _ _)
    · exact absurd h (hc ▸ (hchild _).2 _ _)
    · exact hM.oneParent h h'
  · obtain rfl | hc := List.mem_cons.1 hc
    · refine ⟨by simp, fun g d h => ?_⟩
      obtain ⟨rfl, hc⟩ | ⟨hg, h⟩ := hnew h
      · exact absurd hc (Nat.ne_of_gt (hchild d).1)
      · exact absurd (hM.below h) (Nat.lt_asymm hg)
    · obtain ⟨hlt, hno⟩ := hM.queued.1 ((hmem c).2 (.inr (.inr hc)))
      refine ⟨by simp; omega, fun g d h => ?_⟩
      obtain ⟨rfl, hcd⟩ | ⟨-, h⟩ := hnew h
      · cases d <;> simp only [if_true, Bool.false_eq_true, if_false] at hcd <;> subst hcd
        · exact harest hc
        · exact hbrest hc
      · exact hno g d h
  · have hne : ∀ d : Bool, c ≠ if d then b else a := fun d hcd =>
      horphan nodes.length d (by rw [nextNode_snoc, if_pos rfl, hcd])
    by_cases hlast : c = nodes.length
    · exact hlast ▸ List.mem_cons_self
    · have hlt : c < nodes.length := by
        rw [List.length_append, List.length_singleton] at hc
        omega
      have hq : c ∈ queue := hM.queued.2 ⟨hlt, fun g d h => horphan g d (by
        rwa [nextNode_snoc, if_neg (Nat.ne_of_lt (lt_length_of_nextNode h))])⟩
      obtain h | h | h := (hmem c).1 hq
      · exact absurd h (hne false)
      · exact absurd h (hne true)
      · exact List.mem_cons_of_mem _ h
  · exact List.nodup_cons.2 ⟨fun h => Nat.lt_irrefl _ (hM.queued.1 ((hmem _).2 (.inr (.inr h)))).1, hrest⟩
  · have hsize := hM.size
    have hlen := hperm.length_eq
    simp only [List.length_cons, List.length_append, List.length_nil] at hlen ⊢
    omega

/-- R123's loop, with fuel for each queued node, ends with one record queued, the root. -/
theorem mergeQueue_merged {leaves : List Sym} {fuel : Nat} {q : List QItem} {arena : Arena}
    (hM : Merged leaves (q.map QItem.h) arena.nodes) (hq : q ≠ []) (hfuel : q.length ≤ fuel) :
    Merged leaves [(mergeQueue fuel q arena).2] (mergeQueue fuel q arena).1.nodes := by
  induction fuel generalizing q arena with
  | zero => exact absurd (List.eq_nil_of_length_eq_zero (Nat.le_zero.1 hfuel)) hq
  | succ fuel ih =>
    unfold mergeQueue
    split
    · exact absurd (extractLeast_eq_none ‹_›) hq
    · rename_i a q1 ha
      have hpa := extractLeast_perm ha
      split
      · rename_i hnone
        rw [extractLeast_eq_none hnone, List.perm_singleton] at hpa
        rwa [hpa] at hM
      · rename_i b q2 hb
        have hpb := hpa.trans ((extractLeast_perm hb).cons a)
        have hlen := hpb.length_eq
        refine ih (hM.round ?_) (by simp) ?_
        · simpa using hpb.map QItem.h
        · simp only [List.length_cons] at hlen ⊢
          omega

theorem leafQueue_handles (leaves : List (Sym × BitVec Config.freqw)) :
    (leafQueue leaves).map QItem.h = List.range leaves.length := by
  simp [leafQueue, Function.comp_def, List.range_eq_range', ← List.zipIdx_map_snd]

theorem huffmanTree_merged {leaves : List (Sym × BitVec Config.freqw)} (hne : leaves ≠ []) :
    Merged (leaves.map Prod.fst) [(huffmanTree leaves).2] (huffmanTree leaves).1.nodes := by
  have hstart := merged_leaves (leaves.map Prod.fst)
  rw [List.length_map, ← leafQueue_handles leaves, List.map_map] at hstart
  refine mergeQueue_merged hstart ?_ ?_
  · simpa [leafQueue] using hne
  · simp [leafQueue]

/-! ### The merged tree -/

section
variable {leaves : List Sym} {nodes : List Node} {root : Nat}

/-- R128: the leaves have the first handles, in order. -/
theorem Merged.leaf_iff {queue : List Handle} (hM : Merged leaves queue nodes) {h : Handle} {x : Sym} :
    nodes[h]? = some (.leaf x) ↔ leaves[h]? = some x := by
  obtain ⟨links, rfl⟩ := hM.records
  by_cases hh : h < leaves.length
  · rw [List.getElem?_append_left (by simpa using hh)]
    simp
  · rw [List.getElem?_append_right (by simpa using hh), List.getElem?_eq_none (Nat.le_of_not_lt hh)]
    simp

theorem Merged.countLeaves {queue : List Handle} (hM : Merged leaves queue nodes) :
    Machine.countLeaves nodes = leaves.length := by
  obtain ⟨links, rfl⟩ := hM.records
  have hleaves : (leaves.map Node.leaf).countP isLeaf = leaves.length := by
    simp [List.countP_map, isLeaf, Function.comp_def]
  have hlinks : (links.map (fun a => Node.internal (some a.1) (some a.2))).countP isLeaf = 0 := by
    simp [List.countP_map, isLeaf, Function.comp_def]
  rw [Machine.countLeaves, List.countP_append, hleaves, hlinks, Nat.add_zero]

/-- The records that have children come after the leaves. -/
theorem Merged.leaves_le {queue : List Handle} (hM : Merged leaves queue nodes) {g c : Nat} {b : Bool}
    (h : nextNode nodes g b = some c) : leaves.length ≤ g := by
  by_contra hg
  have hleaf := hM.leaf_iff.2 (List.getElem?_eq_getElem (Nat.lt_of_not_le hg))
  rw [nextNode_leaf hleaf] at h
  cases h

/-- R132: handles fall along a path and its descents are from records above the leaves, so a path is short. -/
theorem Merged.path_length {queue : List Handle} (hM : Merged leaves queue nodes) {h c : Nat} {p : Path}
    (hne : p ≠ []) (hp : walkPath nodes h p = some c) : leaves.length + p.length ≤ h + 1 := by
  induction p generalizing h with
  | nil => exact absurd rfl hne
  | cons b p ih =>
    obtain ⟨d, hd, hp⟩ := walkPath_cons.1 hp
    have hbelow := hM.below hd
    have hle := hM.leaves_le hd
    rw [List.length_cons]
    by_cases hnil : p = []
    · subst hnil
      exact Nat.add_le_add_right hle 1
    · have := ih hnil hp
      omega

variable (hM : Merged leaves [root] nodes)
include hM

theorem Merged.rooted : RootedTree nodes root where
  rootOrphan := (hM.queued.1 (List.mem_singleton_self root)).2
  linked := fun h => (hM.below h).trans (lt_length_of_nextNode h)
  oneParent := hM.oneParent
  reached := by
    intro c hc
    induction hn : nodes.length - c using Nat.strongRecOn generalizing c with
    | ind n ih =>
      by_cases hparent : ∃ g b, nextNode nodes g b = some c
      · obtain ⟨g, b, hg⟩ := hparent
        have hlt := lt_length_of_nextNode hg
        have hbelow := hM.below hg
        obtain ⟨p, hp⟩ := ih (nodes.length - g) (by omega) hlt rfl
        exact ⟨p ++ [b], walkPath_snoc.2 ⟨g, hp, hg⟩⟩
      · have hroot : c ∈ [root] := hM.queued.2 ⟨hc, fun g b h => hparent ⟨g, b, h⟩⟩
        exact ⟨[], congrArg some (List.mem_singleton.1 hroot).symm⟩

/-- R128: the root is the last record made. -/
theorem Merged.root_eq : root + 1 = nodes.length := by
  have hroot := (hM.queued.1 (List.mem_singleton_self root)).1
  have hlast : nodes.length - 1 ∈ [root] := hM.queued.2 ⟨by omega, fun g b h => by
    have := hM.below h
    have := lt_length_of_nextNode h
    omega⟩
  have := List.mem_singleton.1 hlast
  omega

theorem Merged.length_eq : nodes.length + 1 = 2 * leaves.length := hM.size

/-- R132 (a): with two leaves the root is above the leaves. -/
theorem Merged.root_internal (htwo : 2 ≤ leaves.length) : ∃ l r, nodes[root]? = some (.internal l r) := by
  have hroot := hM.root_eq
  have hlen := hM.length_eq
  obtain ⟨x, hx⟩ | h : (∃ x, nodes[root]? = some (.leaf x)) ∨ ∃ l r, nodes[root]? = some (.internal l r) := by
    rw [List.getElem?_eq_getElem (by omega)]
    cases nodes[root] <;> simp
  · have hlt := (List.getElem?_eq_some_iff.1 (hM.leaf_iff.1 hx)).1
    omega
  · exact h

end

/-! ### Path derivation (R130) -/

/-- R130: the entries derived from a record are the leaves below it with the paths to them. -/
theorem mem_derivePaths {fuel : Nat} {nodes : List Node} {h : Handle} {path p : Path} {x : Sym} :
    (x, p) ∈ derivePaths fuel nodes h path ↔ ∃ q, p = path ++ q ∧ q.length < fuel ∧ LeadsTo nodes h q x := by
  induction fuel generalizing h path with
  | zero => simp [derivePaths]
  | succ fuel ih =>
    unfold derivePaths
    split
    · rename_i hh
      constructor
      · simp
      · rintro ⟨q, -, -, hq⟩
        cases q with
        | nil => simp [leadsTo_nil, hh] at hq
        | cons b q => simp [leadsTo_cons, nextNode, hh] at hq
    · rename_i y hh
      rw [List.mem_singleton, Prod.mk.injEq]
      constructor
      · rintro ⟨rfl, rfl⟩
        exact ⟨[], by simp, by simp, leadsTo_nil.2 hh⟩
      · rintro ⟨q, rfl, -, c, hw, hc⟩
        cases walkPath_leaf hh hw
        cases hw
        rw [hh] at hc
        cases hc
        simp
    · rename_i l r hh
      have hside : ∀ {b c}, childOf l r b = some c → ((x, p) ∈ derivePaths fuel nodes c (path ++ [b]) ↔
          ∃ q, p = path ++ b :: q ∧ q.length < fuel ∧ LeadsTo nodes c q x) := fun _ => by rw [ih]; simp
      constructor
      · intro hmem
        obtain ⟨b, c, hc, hmem⟩ :
            ∃ b c, childOf l r b = some c ∧ (x, p) ∈ derivePaths fuel nodes c (path ++ [b]) := by
          obtain hl | hr := List.mem_append.1 hmem
          · cases l with
            | none => simp at hl
            | some c => exact ⟨false, c, rfl, hl⟩
          · cases r with
            | none => simp at hr
            | some c => exact ⟨true, c, rfl, hr⟩
        obtain ⟨q, hp, hlen, hq⟩ := (hside hc).1 hmem
        exact ⟨b :: q, hp, by simpa using hlen, leadsTo_cons.2 ⟨c, (nextNode_internal hh b).trans hc, hq⟩⟩
      · rintro ⟨q, hp, hlen, hq⟩
        cases q with
        | nil => simp [leadsTo_nil, hh] at hq
        | cons b q =>
          obtain ⟨c, hc, hq⟩ := leadsTo_cons.1 hq
          rw [nextNode_internal hh] at hc
          have hmem := (hside hc).2 ⟨q, hp, by simpa using hlen, hq⟩
          cases b with
          | false =>
            cases hc
            exact List.mem_append_left _ hmem
          | true =>
            cases hc
            exact List.mem_append_right _ hmem

/-- The code table of entries that give each symbol one path holds exactly these entries. -/
theorem symGet_codeTableOf {entries : List (Sym × Path)}
    (hfun : ∀ x p q, (x, p) ∈ entries → (x, q) ∈ entries → p = q) {x : Sym} {p : Path} :
    symGet (codeTableOf entries) x = some p ↔ (x, p) ∈ entries := by
  induction entries using List.reverseRecOn with
  | nil => simp [codeTableOf]
  | append_singleton es a ih =>
    have hsnoc : codeTableOf (es ++ [a]) = symPut (codeTableOf es) a.1 (some a.2) := by
      simp [codeTableOf, List.foldl_append]
    have ih := ih (fun x p q hp hq => hfun x p q (List.mem_append_left _ hp) (List.mem_append_left _ hq))
    rw [hsnoc, List.mem_append, List.mem_singleton]
    by_cases hx : a.1 = x
    · subst hx
      rw [symGet_symPut_self, Option.some.injEq]
      constructor
      · rintro rfl
        exact .inr rfl
      · intro hmem
        exact hfun a.1 a.2 p (by simp) (by simpa using hmem)
    · rw [symGet_symPut_other _ _ hx, ih]
      constructor
      · exact .inl
      · rintro (hmem | rfl)
        · exact hmem
        · exact absurd rfl hx

/-- R130, R26 (b), (c): the code table BUILD derives is that of its tree. -/
theorem Merged.coded {leaves : List Sym} {nodes : List Node} {root : Nat} (hM : Merged leaves [root] nodes)
    (hnodup : leaves.Nodup) : Coded nodes root (codeTableOf (derivePaths nodes.length nodes root [])) := by
  have hR := hM.rooted
  have hroot := hM.root_eq
  have hlen := hM.length_eq
  have hderived : ∀ {x p}, (x, p) ∈ derivePaths nodes.length nodes root [] ↔ LeadsTo nodes root p x := by
    intro x p
    simp only [mem_derivePaths, List.nil_append]
    refine ⟨fun ⟨q, hpq, _, hq⟩ => hpq ▸ hq, fun hp => ⟨p, rfl, ?_, hp⟩⟩
    obtain ⟨c, hw, -⟩ := hp
    cases p with
    | nil =>
      rw [List.length_nil]
      omega
    | cons b p =>
      have := hM.path_length (List.cons_ne_nil b p) hw
      omega
  have hentry : ∀ {x p}, symGet (codeTableOf (derivePaths nodes.length nodes root [])) x = some p ↔
      LeadsTo nodes root p x := by
    intro x p
    refine (symGet_codeTableOf (fun y p q hp hq => ?_)).trans hderived
    obtain ⟨c, hwp, hc⟩ := hderived.1 hp
    obtain ⟨d, hwq, hd⟩ := hderived.1 hq
    rw [hM.leaf_iff] at hc hd
    obtain ⟨hlt, -⟩ := List.getElem?_eq_some_iff.1 hc
    cases (List.getElem?_inj hlt hnodup).1 (hc.trans hd.symm)
    exact hR.path_unique hwp hwq
  refine ⟨hentry.1, fun {h x} hh => ?_⟩
  obtain ⟨p, hp⟩ := hR.reached (List.getElem?_eq_some_iff.1 hh).1
  exact ⟨p, hentry.2 ⟨h, hp, hh⟩, hp⟩

/-! ### BUILD's leaves -/

/-- R123's `Lv`: the symbols that are present or TERM, in ascending order. -/
theorem leafCounts_fst (freq : FreqTable) (term : Sym) :
    (leafCounts freq term).map Prod.fst = allSyms.filter (fun y => (symGet freq y).isSome || y == term) := by
  rw [leafCounts, List.map_filterMap, ← List.filterMap_eq_filter]
  refine congrArg (fun f => allSyms.filterMap f) (funext fun y => ?_)
  by_cases hy : y = term
  · simp [hy, Option.guard]
  · cases hget : symGet freq y <;> simp [hy, hget, Option.guard]

theorem mem_leafCounts_fst {freq : FreqTable} {term x : Sym} :
    x ∈ (leafCounts freq term).map Prod.fst ↔ (symGet freq x).isSome = true ∨ x = term := by
  simp [leafCounts_fst, mem_allSyms]

theorem leafCounts_nodup (freq : FreqTable) (term : Sym) : ((leafCounts freq term).map Prod.fst).Nodup :=
  leafCounts_fst freq term ▸ allSyms_nodup.filter _

/-- There are no more leaves than symbol values. -/
theorem leafCounts_length_le (freq : FreqTable) (term : Sym) :
    ((leafCounts freq term).map Prod.fst).length ≤ Config.nsym := by
  rw [leafCounts_fst]
  refine (List.length_filter_le _ _).trans ?_
  rw [allSyms, List.length_map, List.length_range]

/-- R125: a present symbol that is not TERM makes two leaves. -/
theorem two_le_leafCounts {freq : FreqTable} {term x : Sym} (hne : x ≠ term) (hx : (symGet freq x).isSome = true) :
    2 ≤ ((leafCounts freq term).map Prod.fst).length := by
  have hpair : [x, term].Nodup := by simp [hne]
  refine (hpair.subperm (fun y hy => mem_leafCounts_fst.2 ?_)).length_le
  obtain rfl | rfl : y = x ∨ y = term := by simpa using hy
  · exact .inl hx
  · exact .inr rfl

/-! ### R26 after BUILD -/

section
variable {e : Engine} {x : Sym} (hne : x ≠ e.term) (hx : e.freqV x = true) (synthetic : Bool)
  (tf : BitVec Config.freqw)
include hne hx

theorem installTree_merged :
    Merged ((leafCounts e.freq e.term).map Prod.fst) [(e.installTree (leafCounts e.freq e.term) synthetic tf).root]
      (e.installTree (leafCounts e.freq e.term) synthetic tf).nodes := by
  refine huffmanTree_merged (fun hnil => ?_)
  have htwo := two_le_leafCounts hne hx
  simp [hnil] at htwo

/-- R132 (a): a built tree has two leaves at least. -/
theorem installTree_twoLeaves : (e.installTree (leafCounts e.freq e.term) synthetic tf).TwoLeaves := by
  unfold Engine.TwoLeaves
  rw [(installTree_merged hne hx synthetic tf).countLeaves]
  exact two_le_leafCounts hne hx

/-- R132 (a) to (e): a built tree is usable. -/
theorem installTree_usableTree : (e.installTree (leafCounts e.freq e.term) synthetic tf).UsableTree := by
  have hM := installTree_merged hne hx synthetic tf
  have hC := hM.coded (leafCounts_nodup e.freq e.term)
  have htwo := two_le_leafCounts hne hx
  have hall := leafCounts_length_le e.freq e.term
  have hroot := hM.root_eq
  have hlen := hM.length_eq
  refine usableTree_of_coded hM.rooted hC (hM.root_internal htwo) ?_ (fun y p hp => ?_) ?_ rfl
  · obtain ⟨h, hh⟩ := List.mem_iff_getElem?.1 (mem_leafCounts_fst (freq := e.freq).2 (.inr rfl))
    exact hC.isSome_iff.2 ⟨h, hM.leaf_iff.2 hh⟩
  · obtain ⟨c, hw, -⟩ := hC.leads hp
    by_cases hnil : p = []
    · simp [hnil]
    · have := hM.path_length hnil hw
      simp only [Config.maxcode]
      omega
  · simp only [Config.nodeCap]
    omega

end

end Sys2Proof.Machine
end

section
/-! TABLE_IMPORT's tree: every record the reconstruction adds, and every entry the parse accepts, keeps a tree with its
code table (42_code_table.md R150 to R158); with BUILD's tree, every step keeps R26. -/

namespace Sys2Proof.Machine

/-! ### Adding records (R156) -/

/-- What R156 keeps of the arena: a tree from record 0, which is INTERNAL, within the capacity. -/
structure Rebuilt (nodes : List Node) : Prop extends RootedTree nodes 0 where
  rootInternal : ∃ l r, nodes[0]? = some (.internal l r)
  bounded : nodes.length ≤ Config.nodeCap

/-- The later arena has the links of the earlier one and the same leaves. -/
structure Extends (nodes nodes' : List Node) : Prop where
  links : ∀ g b c, nextNode nodes g b = some c → nextNode nodes' g b = some c
  leaves : ∀ (h : Handle) (x : Sym), nodes'[h]? = some (.leaf x) ↔ nodes[h]? = some (.leaf x)

theorem Extends.refl (nodes : List Node) : Extends nodes nodes := ⟨fun _ _ _ => id, fun _ _ => Iff.rfl⟩

theorem Extends.trans {nodes nodes' nodes'' : List Node} (h : Extends nodes nodes') (h' : Extends nodes' nodes'') :
    Extends nodes nodes'' :=
  ⟨fun g b c hc => h'.links g b c (h.links g b c hc), fun k x => (h'.leaves k x).trans (h.leaves k x)⟩

/-- The arena after record `h`, whose links are these, is given a new INTERNAL record as its child on `b`. -/
def withChild (nodes : List Node) (h : Handle) (l r : Option Handle) (b : Bool) : List Node :=
  nodes.set h (linkChild l r b nodes.length) ++ [.internal none none]

theorem rebuilt_start : Rebuilt Rebuild.start.nodes := by
  have hnone : ∀ g b, nextNode [Node.internal none none] g b = none := by
    intro g b
    cases g with
    | zero => cases b <;> rfl
    | succ g => exact nextNode_free (by simp) b
  exact
    { rootOrphan := by simp [Rebuild.start, hnone]
      linked := by simp [Rebuild.start, hnone]
      oneParent := by simp [Rebuild.start, hnone]
      reached := fun {c} hc => ⟨[], by simp [Rebuild.start] at hc; simp [walkPath, hc]⟩
      rootInternal := ⟨none, none, rfl⟩
      bounded := by decide }

section
variable {nodes : List Node} {h : Nat} {l r : Option Handle} {b : Bool}

theorem lt_length_of_record {a : Node} (hh : nodes[h]? = some a) : h < nodes.length :=
  (List.getElem?_eq_some_iff.1 hh).1

variable (hh : nodes[h]? = some (.internal l r))
include hh

theorem withChild_getElem? (g : Nat) : (withChild nodes h l r b)[g]? =
    if g = h then some (linkChild l r b nodes.length)
    else if g = nodes.length then some (.internal none none) else nodes[g]? := by
  have hlt := lt_length_of_record hh
  unfold withChild
  rw [List.getElem?_append, List.length_set, List.getElem?_set]
  grind

/-- Where `h` has no child on `b`, the link to the new record is the one link added. -/
theorem nextNode_withChild (hnone : childOf l r b = none) (g : Nat) (d : Bool) :
    nextNode (withChild nodes h l r b) g d =
      if g = h ∧ d = b then some nodes.length else nextNode nodes g d := by
  by_cases hg : g = h
  · subst hg
    have hget := withChild_getElem? (b := b) hh g
    rw [if_pos rfl] at hget
    rw [nextNode_internal hh]
    cases b <;> cases d <;> simp [nextNode, hget, linkChild, childOf]
  · by_cases hlast : g = nodes.length
    · subst hlast
      have hget := withChild_getElem? (b := b) hh nodes.length
      rw [if_neg hg, if_pos rfl] at hget
      rw [nextNode_internal hget, nextNode_free (Nat.le_refl _), if_neg (fun h => hg h.1)]
      cases d <;> rfl
    · have hget := withChild_getElem? (b := b) hh g
      rw [if_neg hg, if_neg hlast] at hget
      rw [nextNode, hget, if_neg (fun h => hg h.1), nextNode]

theorem withChild_extends (hnone : childOf l r b = none) : Extends nodes (withChild nodes h l r b) where
  links := by
    intro g d c hc
    rw [nextNode_withChild hh hnone, if_neg, hc]
    rintro ⟨rfl, rfl⟩
    rw [nextNode_internal hh, hnone] at hc
    cases hc
  leaves := by
    intro k x
    rw [withChild_getElem? hh]
    split
    · rename_i hk
      rw [hk, hh]
      cases b <;> simp [linkChild]
    · split
      · rename_i hk
        simp [hk]
      · rfl

/-- R156: a record added where a link was missing is reached by that link alone. -/
theorem Rebuilt.withChild (hR : Rebuilt nodes) (hnone : childOf l r b = none) (hroom : nodes.length ≠ Config.nodeCap) :
    Rebuilt (withChild nodes h l r b) := by
  have hlt := lt_length_of_record hh
  have hnext := nextNode_withChild hh hnone
  have hext := withChild_extends hh hnone
  have hlen : (Machine.withChild nodes h l r b).length = nodes.length + 1 := by simp [Machine.withChild]
  have hcases : ∀ {g c : Nat} {d}, nextNode (Machine.withChild nodes h l r b) g d = some c →
      (g = h ∧ d = b ∧ c = nodes.length) ∨ (nextNode nodes g d = some c ∧ c < nodes.length) := by
    intro g c d hc
    rw [hnext] at hc
    split at hc
    · rename_i hgd
      exact .inl ⟨hgd.1, hgd.2, (Option.some.inj hc).symm⟩
    · exact .inr ⟨hc, hR.linked hc⟩
  refine ⟨⟨fun g d hc => ?_, fun {g d c} hc => ?_, fun {g d g' d' c} hc hc' => ?_, fun {c} hc => ?_⟩, ?_, ?_⟩
  · obtain ⟨-, -, h0⟩ | ⟨hc, -⟩ := hcases hc
    · omega
    · exact hR.rootOrphan g d hc
  · obtain ⟨-, -, rfl⟩ | ⟨-, hc⟩ := hcases hc <;> omega
  · obtain ⟨rfl, rfl, rfl⟩ | ⟨hc, hlt⟩ := hcases hc <;> obtain ⟨rfl, rfl, h'⟩ | ⟨hc', hlt'⟩ := hcases hc'
    · exact ⟨rfl, rfl⟩
    · omega
    · omega
    · exact hR.oneParent hc hc'
  · by_cases hold : c < nodes.length
    · obtain ⟨p, hp⟩ := hR.reached hold
      exact ⟨p, walkPath_mono hext.links hp⟩
    · obtain ⟨p, hp⟩ := hR.reached hlt
      have hc : c = nodes.length := by omega
      refine ⟨p ++ [b], walkPath_snoc.2 ⟨h, walkPath_mono hext.links hp, ?_⟩⟩
      rw [hnext, if_pos ⟨rfl, rfl⟩, hc]
  · rw [withChild_getElem? hh]
    split
    · cases b <;> exact ⟨_, _, rfl⟩
    · split
      · exact ⟨_, _, rfl⟩
      · exact hR.rootInternal
  · have := hR.bounded
    omega

/-- R156: a record without children that becomes a leaf changes no link. -/
theorem nextNode_set_leaf (hl : l = none) (hr : r = none) (x : Sym) :
    nextNode (nodes.set h (.leaf x)) = nextNode nodes := by
  subst hl hr
  funext g d
  by_cases hg : g = h
  · subst hg
    rw [nextNode_internal hh, nextNode_leaf (List.getElem?_set_self (lt_length_of_record hh))]
    cases d <;> rfl
  · simp only [nextNode, List.getElem?_set_ne (Ne.symm hg)]

end

/-- R156's walk reaches the record its path leads to, in an arena that it has only added to. -/
theorem insertWalk_ok {e : Nat} {nodes nodes' : List Node} {h h' : Handle} {path : Path}
    (hok : insertWalk e nodes h path = .ok (nodes', h')) (hR : Rebuilt nodes) :
    Rebuilt nodes' ∧ Extends nodes nodes' ∧ walkPath nodes' h path = some h' := by
  induction path generalizing nodes h with
  | nil =>
    cases hok
    exact ⟨hR, .refl _, rfl⟩
  | cons b path ih =>
    unfold insertWalk at hok
    split at hok
    · cases hok
    · cases hok
    · rename_i l r hh
      split at hok
      · rename_i c hc
        obtain ⟨hR', hext, hw⟩ := ih hok hR
        exact ⟨hR', hext, walkPath_cons.2 ⟨c, hext.links _ _ _ ((nextNode_internal hh b).trans hc), hw⟩⟩
      · rename_i hnone
        split at hok
        · cases hok
        · rename_i hroom
          obtain ⟨hR', hext, hw⟩ := ih hok (hR.withChild hh hnone hroom)
          refine ⟨hR', (withChild_extends hh hnone).trans hext, walkPath_cons.2 ⟨nodes.length, ?_, hw⟩⟩
          exact hext.links _ _ _ ((nextNode_withChild hh hnone h b).trans (if_pos ⟨rfl, rfl⟩))

/-! ### Inserting an entry -/

/-- What the reconstruction keeps: a tree with its code table, and paths of R25's length. -/
structure Rebuild.Inv (t : Rebuild) : Prop where
  rebuilt : Rebuilt t.nodes
  coded : Coded t.nodes 0 t.ct
  pathLengths : ∀ x p, symGet t.ct x = some p → p.length ≤ Config.maxcode

theorem rebuildInv_start : Rebuild.start.Inv where
  rebuilt := rebuilt_start
  coded := by
    refine ⟨fun h => ?_, fun {h x} hh => ?_⟩
    · simp [Rebuild.start] at h
    · have := List.mem_of_getElem? hh
      simp [Rebuild.start] at this
  pathLengths := by simp [Rebuild.start]

/-- A walk that adds records keeps the code table that of the tree. -/
theorem Coded.extends {nodes nodes' : List Node} {root : Handle} {ct : CodeTable} (hC : Coded nodes root ct)
    (hext : Extends nodes nodes') : Coded nodes' root ct := by
  refine ⟨fun hp => ?_, fun {h x} hh => ?_⟩
  · obtain ⟨h, hw, hh⟩ := hC.leads hp
    exact ⟨h, walkPath_mono hext.links hw, (hext.leaves h _).2 hh⟩
  · obtain ⟨p, hp, hw⟩ := hC.covers ((hext.leaves h x).1 hh)
    exact ⟨p, hp, walkPath_mono hext.links hw⟩

/-- A leaf for a symbol without a code, at the end of its path. -/
theorem Coded.setLeaf {nodes : List Node} {root h : Handle} {ct : CodeTable} {x : Sym} {path : Path}
    (hC : Coded nodes root ct) (hh : nodes[h]? = some (.internal none none)) (hw : walkPath nodes root path = some h)
    (hx : symGet ct x = none) : Coded (nodes.set h (.leaf x)) root (symPut ct x (some path)) := by
  have hlinks := nextNode_set_leaf hh rfl rfl x
  have hwalk : ∀ {p c}, walkPath nodes root p = some c → walkPath (nodes.set h (.leaf x)) root p = some c :=
    fun hp => walkPath_mono (fun g b d => by rw [hlinks]; exact id) hp
  have hself : (nodes.set h (.leaf x))[h]? = some (.leaf x) := List.getElem?_set_self (lt_length_of_record hh)
  refine ⟨fun {y p} hp => ?_, fun {k y} hk => ?_⟩
  · by_cases hy : x = y
    · subst hy
      rw [symGet_symPut_self] at hp
      cases hp
      exact ⟨h, hwalk hw, hself⟩
    · rw [symGet_symPut_other _ _ hy] at hp
      obtain ⟨k, hwk, hk⟩ := hC.leads hp
      have hne : h ≠ k := by
        rintro rfl
        rw [hh] at hk
        cases hk
      exact ⟨k, hwalk hwk, by rw [List.getElem?_set_ne hne, hk]⟩
  · by_cases hkh : h = k
    · subst hkh
      rw [hself] at hk
      cases hk
      exact ⟨path, symGet_symPut_self .., hwalk hw⟩
    · rw [List.getElem?_set_ne hkh] at hk
      obtain ⟨p, hp, hwp⟩ := hC.covers hk
      have hy : x ≠ y := by
        rintro rfl
        rw [hx] at hp
        cases hp
      exact ⟨p, by rw [symGet_symPut_other _ _ hy, hp], hwalk hwp⟩

/-- R156: an accepted entry keeps the reconstruction's invariant. -/
theorem insertEntry_inv {x : Sym} {path : Path} {e : Nat} {t t' : Rebuild} (hok : insertEntry x path e t = .ok t')
    (hne : path ≠ []) (hlen : path.length ≤ Config.maxcode) (hI : t.Inv) : t'.Inv := by
  unfold insertEntry at hok
  split at hok
  · cases hok
  rename_i hx
  split at hok
  · cases hok
  rename_i nodes h hwalk
  obtain ⟨hR, hext, hw⟩ := insertWalk_ok hwalk hI.rebuilt
  split at hok
  · cases hok
  · cases hok
  rename_i l r hh
  split at hok
  · cases hok
  rename_i hchildless
  cases hok
  obtain ⟨rfl, rfl⟩ : l = none ∧ r = none := by simpa using hchildless
  have hlinks := nextNode_set_leaf hh rfl rfl x
  have hroot : h ≠ 0 := by
    rintro rfl
    obtain ⟨q, b, rfl⟩ := (List.eq_nil_or_concat' path).resolve_left hne
    obtain ⟨g, -, hg⟩ := walkPath_snoc.1 hw
    exact hR.rootOrphan g b hg
  refine ⟨⟨hR.congr hlinks (List.length_set ..), ?_, ?_⟩, (hI.coded.extends hext).setLeaf hh hw ?_, fun y p hp => ?_⟩
  · rw [List.getElem?_set_ne hroot]
    exact hR.rootInternal
  · rw [List.length_set]
    exact hR.bounded
  · simpa using hx
  · by_cases hy : x = y
    · subst hy
      rw [symGet_symPut_self] at hp
      cases hp
      exact hlen
    · rw [symGet_symPut_other _ _ hy] at hp
      exact hI.pathLengths y p hp

/-! ### The parse (R150, R151) -/

/-- The path read so far is of R25's length. -/
def Parse.PathBounded : Parse → Prop
  | .char _ _ => True
  | .colon _ _ => True
  | .digits _ _ path => path.length ≤ Config.maxcode

theorem endOfDigits_inv {p e : Nat} {x : Sym} {path : Path} {t t' : Rebuild} (hok : endOfDigits p e x path t = .ok t')
    (hlen : path.length ≤ Config.maxcode) (hI : t.Inv) : t'.Inv := by
  unfold endOfDigits at hok
  split at hok
  · cases hok
  · exact insertEntry_inv hok (by simp_all) hlen hI

theorem parseByte_inv {p : Nat} {x : Byte} {st st' : Parse} {t t' : Rebuild}
    (hok : parseByte p x st t = .ok (st', t')) (hst : st.PathBounded) (hI : t.Inv) : st'.PathBounded ∧ t'.Inv := by
  cases st with
  | char e got =>
    simp only [parseByte] at hok
    split at hok <;> cases hok <;> exact ⟨trivial, hI⟩
  | colon e y =>
    simp only [parseByte] at hok
    split at hok <;> cases hok
    exact ⟨Nat.zero_le _, hI⟩
  | digits e y path =>
    simp only [Parse.PathBounded] at hst
    simp only [parseByte] at hok
    split at hok
    · split at hok
      · cases hok
      · cases hok
        refine ⟨?_, hI⟩
        simp only [Parse.PathBounded, List.length_append, List.length_singleton]
        omega
    · split at hok
      · cases hok
      · rename_i hend
        split at hok <;> cases hok
        exact ⟨trivial, endOfDigits_inv hend hst hI⟩

theorem parseEnd_inv {n : Nat} {st : Parse} {t t' : Rebuild} (hok : parseEnd n st t = .ok t') (hst : st.PathBounded)
    (hI : t.Inv) : t'.Inv := by
  cases st with
  | char e got =>
    simp only [parseEnd] at hok
    split at hok <;> cases hok
    exact hI
  | colon e x => cases hok
  | digits e x path => exact endOfDigits_inv hok hst hI

theorem parseText_inv {p : Nat} {text : List Byte} {st : Parse} {t t' : Rebuild}
    (hok : parseText p text st t = .ok t') (hst : st.PathBounded) (hI : t.Inv) : t'.Inv := by
  induction text generalizing p st t with
  | nil => exact parseEnd_inv hok hst hI
  | cons x text ih =>
    simp only [parseText] at hok
    split at hok
    · cases hok
    · rename_i hbyte
      obtain ⟨hst, hI⟩ := parseByte_inv hbyte hst hI
      exact ih hok hst hI

theorem importText_inv {term : Sym} {text : List Byte} {t : Rebuild} (hok : importText term text = .ok t) : t.Inv :=
  parseText_inv (importText_ok hok).1 trivial rebuildInv_start

/-- R158: an imported tree is usable. -/
theorem installImport_usableTree {e : Engine} {text : List Byte} {t : Rebuild}
    (hok : importText e.term text = .ok t) : (e.installImport t).UsableTree := by
  have hI := importText_inv hok
  exact usableTree_of_coded hI.rebuilt.toRootedTree hI.coded hI.rebuilt.rootInternal (importText_ok hok).2
    hI.pathLengths hI.rebuilt.bounded rfl

/-- R153: an imported tree has a leaf, TERM's. -/
theorem installImport_countLeaves_pos {e : Engine} {text : List Byte} {t : Rebuild}
    (hok : importText e.term text = .ok t) : 0 < countLeaves (e.installImport t).nodes := by
  obtain ⟨h, hh⟩ := (importText_inv hok).coded.isSome_iff.1 (importText_ok hok).2
  exact countLeaves_pos hh

/-! ### Every step keeps R26 -/

theorem treeInvariant_of_noTree {e : Engine} (h : e.treeValid = false) : e.TreeInvariant :=
  fun hv => absurd (hv.symm.trans h) (by simp)

theorem commandBody_treeInvariant (i : Instr) {s : State} (hT : s.eng.TreeInvariant) :
    (commandBody i s).Ends Engine.TreeInvariant (fun e _ => e.TreeInvariant) := by
  cases i with
  | setTerm x => exact treeInvariant_of_noTree rfl
  | build =>
    refine buildBody_ends ?_ (treeInvariant_of_noTree rfl)
    rintro ⟨x, hne, hx⟩ -
    exact installTree_usableTree hne hx _ _
  | tableImport n =>
    exact tableImportBody_ends (fun _ _ _ _ hok _ => installImport_usableTree hok) (treeInvariant_of_noTree rfl)
      (fun _ _ _ _ _ => treeInvariant_of_noTree rfl)
  | _ =>
    exact (commandBody_frame _ s).imp
      (fun e he => treeInvariant_of_agrees (he .tree (by simp [writes])) (he .term (by simp [writes])) hT)
      (fun e _ he => treeInvariant_of_agrees (he.1 .tree (by simp [writes])) (he.1 .term (by simp [writes])) hT)

theorem step_treeInvariant {s t : State} (hT : s.eng.TreeInvariant) (h : step s = .next t) : t.eng.TreeInvariant := by
  have hkeep : ∀ {e e' : Engine}, e.TreeInvariant → (∀ p, p ≠ .errors → e.Agrees e' p) → e'.TreeInvariant :=
    fun he hag => treeInvariant_of_agrees (hag .tree (by simp)) (hag .term (by simp)) he
  refine step_keeps h hT (treeInvariant_of_noTree rfl) (hkeep hT fun p hp => ackError_keeps hp)
    (fun _ => hkeep hT fun p hp => markDropped_keeps hp) (fun _ _ _ => ?_) (fun _ i _ u _ _ hu _ => ?_)
  · exact hkeep (e := s.eng.zeroCounters) (hkeep hT fun p _ => s.eng.agrees_refl p) (fun p hp => enterError_keeps hp ..)
  · have hTu : u.eng.TreeInvariant := hu ▸ hkeep hT fun p _ => s.eng.agrees_refl p
    exact (commandBody_treeInvariant i hTu).enterError (fun e _ _ _ _ he => hkeep he fun p hp => enterError_keeps hp ..)

/-- R26 (f) while there is a tree, or else what is said of the exception. -/
def Engine.TwoLeavesOr (exception : Prop) (e : Engine) : Prop :=
  e.treeValid = true → e.TwoLeaves ∨ exception ∧ e.nleaves = 1#64

theorem twoLeavesOr_of_agrees {exception : Prop} {e e' : Engine} (htree : e.Agrees e' .tree)
    (h : e.TwoLeavesOr exception) : e'.TwoLeavesOr exception := by
  obtain ⟨hnodes, -, -, hvalid, -, -⟩ := htree
  unfold Engine.TwoLeavesOr Engine.TwoLeaves Engine.nleaves
  rwa [hnodes, hvalid]

theorem twoLeavesOr_of_noTree {exception : Prop} {e : Engine} (h : e.treeValid = false) : e.TwoLeavesOr exception :=
  fun hv => absurd (hv.symm.trans h) (by simp)

/-- R132 (a), R153: BUILD leaves two leaves at least, and TABLE_IMPORT one at least. -/
theorem commandBody_twoLeavesOr (i : Instr) {s : State} {exception : Prop} (hT : s.eng.TwoLeavesOr exception)
    (himport : ∀ n, i = .tableImport n → exception) :
    (commandBody i s).Ends (Engine.TwoLeavesOr exception) (fun e _ => e.TwoLeavesOr exception) := by
  cases i with
  | setTerm x => exact twoLeavesOr_of_noTree rfl
  | build =>
    refine buildBody_ends ?_ (twoLeavesOr_of_noTree rfl)
    rintro ⟨x, hne, hx⟩ -
    exact .inl (installTree_twoLeaves hne hx _ _)
  | tableImport n =>
    refine tableImportBody_ends (fun _ _ t _ hok _ => ?_) (twoLeavesOr_of_noTree rfl)
      (fun _ _ _ _ _ => twoLeavesOr_of_noTree rfl)
    have hpos := installImport_countLeaves_pos hok
    obtain hone | htwo := Nat.eq_or_lt_of_le (Nat.succ_le_of_lt hpos)
    · exact .inr ⟨himport n rfl, congrArg (BitVec.ofNat 64) hone.symm⟩
    · exact .inl htwo
  | _ => exact commandBody_keeps_part (p := .tree) (by simp [writes]) (fun e he => twoLeavesOr_of_agrees he hT)

/-- Settles O59: BUILD's tree and TABLE_IMPORT's are usable and every other command keeps the tree with TERM or clears it;
only a TABLE_IMPORT can leave one leaf. -/
theorem stepKeepsTreeInvariant : Obligations.StepKeepsTreeInvariant := by
  refine ⟨fun s t => step_treeInvariant, fun s t htwo h hvalid => ?_⟩
  have hT : s.eng.TwoLeavesOr (∃ d n rest, s.host = .command d :: rest ∧ decode d = .ok (.tableImport n)) :=
    fun hv => .inl (htwo hv)
  have hstep := step_keeps h hT (twoLeavesOr_of_noTree rfl) (twoLeavesOr_of_agrees (ackError_keeps (by simp)) hT)
    (fun _ => twoLeavesOr_of_agrees (markDropped_keeps (by simp)) hT) (fun _ _ _ => hT)
    (fun d i rest u hhost hdecode hu _ =>
      (commandBody_twoLeavesOr i (hu ▸ hT) (fun n hi => ⟨d, n, rest, hhost, hi ▸ hdecode⟩)).enterError
        (fun e _ _ _ _ he => he))
  obtain h2 | ⟨⟨d, n, rest, hhost, hdecode⟩, hone⟩ := hstep hvalid
  · exact .inl h2
  · exact .inr ⟨d, n, rest, hhost, hdecode, hone⟩

end Sys2Proof.Machine
end

section
/-! The carrier of a descriptor, and the host's moves (20_memory.md R52, R60). -/

namespace Sys2Proof

theorem littleEndian_append_singleton (bs : List Byte) (x : Byte) :
    littleEndian (bs ++ [x]) = littleEndian bs + 2 ^ (8 * bs.length) * x.toNat := by
  induction bs with
  | nil => simp [littleEndian]
  | cons y bs ih =>
    have hpow : 2 ^ (8 * (bs.length + 1)) = 256 * 2 ^ (8 * bs.length) := by
      rw [Nat.mul_succ, Nat.pow_add, Nat.mul_comm]
    rw [List.cons_append, littleEndian, littleEndian, ih, List.length_cons, hpow]
    ring

/-- R52 (a): the first `n` bytes of a word hold its lowest `8n` bits. -/
theorem littleEndian_lowBytes (d : Descriptor) (n : Nat) :
    littleEndian ((List.range n).map (fun k => d.extractLsb' (8 * k) 8)) = d.toNat % 2 ^ (8 * n) := by
  induction n with
  | zero => simp [littleEndian, Nat.mod_one]
  | succ n ih =>
    rw [List.range_succ, List.map_append, List.map_singleton, littleEndian_append_singleton, ih, List.length_map,
      List.length_range, BitVec.extractLsb'_toNat, Nat.shiftRight_eq_div_pow, ← Nat.mod_mul, ← Nat.pow_add,
      Nat.mul_succ]

theorem bytesOfDescriptor_length (d : Descriptor) : (bytesOfDescriptor d).length = 16 := by
  rw [bytesOfDescriptor, List.length_map, List.length_range]

/-- Settles O6: the sixteen bytes hold all 128 bits. -/
theorem carrierBytesReadBack : Obligations.CarrierBytesReadBack := by
  refine fun d => ⟨bytesOfDescriptor_length d, ?_⟩
  have hvalue : littleEndian (bytesOfDescriptor d) = d.toNat :=
    (littleEndian_lowBytes d 16).trans (Nat.mod_eq_of_lt d.isLt)
  rw [descriptorOfBytes, if_pos (bytesOfDescriptor_length d), hvalue, BitVec.ofNat_toNat, BitVec.setWidth_eq]

end Sys2Proof

namespace Sys2Proof.Machine

/-- R235, R252: with no move of the host left the machine holds its state. -/
theorem step_idle {s : State} (hhost : s.host = []) : step s = .next s := by
  simp [step, nextMove, hhost]

/-- R38: a step is the host's next move, taken off the moves still to come. -/
theorem step_hostMove {s : State} {a : HostAction} {rest : List HostAction} (hhost : s.host = a :: rest) :
    step s = hostMove a { s with host := rest } := by
  simp [step, nextMove, hhost]

/-- Settles O12: a step is the host's next move, and each of these moves is its own update of the state. -/
theorem hostMovesBetweenCommands : Obligations.HostMovesBetweenCommands :=
  fun _ _ => ⟨step_idle, fun _ _ => step_hostMove, fun _ _ => step_hostMove, fun _ => step_hostMove,
    fun _ => step_hostMove⟩

end Sys2Proof.Machine
end

section
/-! The four streams: what the body of each command reads and writes, and when it waits for ever (20_memory.md R54 to
R60, 70_reset_and_hazards.md R259). -/

namespace Sys2Proof.Machine

/-- The streams at the block's ports (R50). -/
inductive Stream where
  | inp
  | symIn
  | out
  | symOut
deriving DecidableEq

/-- The streams a command may read or write (R56 to R59). -/
def streamsOf : Instr → List Stream
  | .bbLoad _ | .tableImport _ => [.inp]
  | .decodeStream _ => [.inp, .symOut]
  | .decodeBb => [.symOut]
  | .encode _ => [.symIn, .out]
  | .bbEmit | .tableExport => [.out]
  | .nop | .reset | .errAck | .setTerm _ | .freqClear | .freqSet _ _ | .build | .ctRead _ | .bbClear | .bbAppend _
  | .bbGet _ => []

/-- From `s` to `t` units left the head of each input and each output grew, in these streams alone; the host's side is as
it was. -/
structure State.MovesOnly (streams : List Stream) (s t : State) : Prop where
  inp : ∃ k, t.inp = { s.inp with units := s.inp.units.drop k }
  symIn : ∃ k, t.symIn = { s.symIn with units := s.symIn.units.drop k }
  out : s.out <+: t.out
  symOut : s.symOut <+: t.symOut
  host : t.host = s.host
  readData : t.readData = s.readData
  inpKept : Stream.inp ∉ streams → t.inp = s.inp
  symInKept : Stream.symIn ∉ streams → t.symIn = s.symIn
  outKept : Stream.out ∉ streams → t.out = s.out
  symOutKept : Stream.symOut ∉ streams → t.symOut = s.symOut

/-- A body that runs from `s` ends, at its last line or at a raise, with these streams moved alone; it waits for ever
only on a stream whose next unit the host withholds (R259). -/
def Result.MovesOnly (streams : List Stream) (s : State) : Result → Prop
  | .ok t => s.MovesOnly streams t
  | .raised t _ _ _ => s.MovesOnly streams t
  | .stuck .stuckIn => s.inp.tail = .withheld
  | .stuck .stuckSymIn => s.symIn.tail = .withheld

section
variable {streams : List Stream} {s u : State}

/-! ### The streams' operations -/

theorem movesOnly_refl (streams : List Stream) (s : State) : s.MovesOnly streams s :=
  ⟨⟨0, rfl⟩, ⟨0, rfl⟩, List.prefix_rfl, List.prefix_rfl, rfl, rfl, fun _ => rfl, fun _ => rfl, fun _ => rfl,
    fun _ => rfl⟩

/-- Replacing the engine moves no stream, after the other moves or before them. -/
theorem State.MovesOnly.setEng (h : s.MovesOnly streams u) (e : Engine) : s.MovesOnly streams (u.setEng e) :=
  { h with }

theorem State.MovesOnly.of_setEng {e : Engine} (h : (s.setEng e).MovesOnly streams u) : s.MovesOnly streams u :=
  { h with }

theorem Result.MovesOnly.of_setEng {e : Engine} {r : Result} (h : r.MovesOnly streams (s.setEng e)) :
    r.MovesOnly streams s := by
  cases r with
  | ok u => exact State.MovesOnly.of_setEng h
  | raised u code i0 i1 => exact State.MovesOnly.of_setEng h
  | stuck f => cases f <;> exact h

theorem movesOnly_readIn (hin : Stream.inp ∈ streams) (s : State) (k : Nat) : s.MovesOnly streams (s.readIn k) :=
  { movesOnly_refl streams s with
    inp := ⟨k, rfl⟩
    inpKept := fun hno => absurd hin hno }

theorem movesOnly_readSym (hsym : Stream.symIn ∈ streams) (s : State) (k : Nat) :
    s.MovesOnly streams (s.readSym k) :=
  { movesOnly_refl streams s with
    symIn := ⟨k, rfl⟩
    symInKept := fun hno => absurd hsym hno }

theorem State.MovesOnly.writeOut (h : s.MovesOnly streams u) (hout : Stream.out ∈ streams) (bytes : List Byte) :
    s.MovesOnly streams (u.writeOut bytes) :=
  { h with
    out := h.out.trans (List.prefix_append _ _)
    outKept := fun hno => absurd hout hno }

theorem State.MovesOnly.writeSymOut (h : s.MovesOnly streams u) (hout : Stream.symOut ∈ streams) (syms : List Sym) :
    s.MovesOnly streams (u.writeSymOut syms) :=
  { h with
    symOut := h.symOut.trans (List.prefix_append _ _)
    symOutKept := fun hno => absurd hout hno }

theorem State.MovesOnly.inp_tail (h : s.MovesOnly streams u) : u.inp.tail = s.inp.tail := by
  obtain ⟨k, hk⟩ := h.inp
  rw [hk]

theorem State.MovesOnly.symIn_tail (h : s.MovesOnly streams u) : u.symIn.tail = s.symIn.tail := by
  obtain ⟨k, hk⟩ := h.symIn
  rw [hk]

/-! ### The shared parts of the bodies -/

theorem needTree_movesOnly {op : BitVec 8} {body : State → Result} (h : (body s).MovesOnly streams s) :
    (needTree op body s).MovesOnly streams s := by
  unfold needTree
  split
  · exact h
  · exact movesOnly_refl streams s

theorem atEndOfIn_movesOnly {r : Result} (hu : s.MovesOnly streams u) (h : r.MovesOnly streams s) :
    (atEndOfIn u r).MovesOnly streams s := by
  cases htail : u.inp.tail with
  | eof => rwa [atEndOfIn_eof r htail]
  | withheld =>
    rw [atEndOfIn_withheld r htail]
    exact hu.inp_tail.symm.trans htail

theorem atEndOfSym_movesOnly {r : Result} (hu : s.MovesOnly streams u) (h : r.MovesOnly streams s) :
    (atEndOfSym u r).MovesOnly streams s := by
  cases htail : u.symIn.tail with
  | eof => rwa [atEndOfSym_eof r htail]
  | withheld =>
    rw [atEndOfSym_withheld r htail]
    exact hu.symIn_tail.symm.trans htail

/-- Loading the buffer takes bytes from the head of IN, whatever is done with them then. -/
theorem loadBuffer_movesOnly {n : Nat} {done : State → Result} (hin : Stream.inp ∈ streams)
    (hdone : ∀ u, s.MovesOnly streams u → (done u).MovesOnly streams s) :
    (loadBuffer n done s).MovesOnly streams s := by
  by_cases hn : 8 * n ≤ Config.bbCapBits
  · by_cases hlen : n ≤ s.inp.units.length
    · rw [loadBuffer_enough done s hn hlen]
      exact hdone _ ((movesOnly_readIn hin s n).setEng _)
    · rw [loadBuffer_short done s hn (Nat.lt_of_not_le hlen)]
      have hread := (movesOnly_readIn hin s s.inp.units.length).setEng
      exact atEndOfIn_movesOnly (hread _) (hread _)
  · rw [loadBuffer_tooLong done s (Nat.lt_of_not_le hn)]
    exact movesOnly_refl streams s

/-- A decode writes SYMOUT alone, on top of what its reading moved (R180). -/
theorem finishWalk_movesOnly {onEnd : Walk → State → Result} (hout : Stream.symOut ∈ streams)
    (hu : s.MovesOnly streams u)
    (hend : ∀ w v, s.MovesOnly streams v → (onEnd w v).MovesOnly streams s) (r : WalkStep) :
    (finishWalk u onEnd r).MovesOnly streams s := by
  cases r with
  | running w => exact hend w _ (hu.setEng _)
  | returned w => exact (hu.setEng _).writeSymOut hout w.obuf
  | failed w code i0 i1 => exact hu.setEng _

theorem importStaged_movesOnly (hu : s.MovesOnly streams u) : (importStaged u).MovesOnly streams s := by
  unfold importStaged
  split
  · exact hu.setEng _
  · exact hu
  · exact hu

theorem encodeFinish_movesOnly (text : List Sym) (hout : Stream.out ∈ streams) (hu : s.MovesOnly streams u) :
    (encodeFinish text u).MovesOnly streams s := by
  unfold encodeFinish
  dsimp only
  split
  · exact (hu.setEng _).writeOut hout _
  · exact hu.setEng _

end

/-! ### The body of each command -/

theorem buildBody_movesOnly (s : State) : (buildBody s).MovesOnly [] s := by
  unfold buildBody
  dsimp only
  split <;> exact (movesOnly_refl _ _).setEng _

theorem ctReadBody_movesOnly (x : Sym) (s : State) : (ctReadBody x s).MovesOnly [] s := by
  unfold ctReadBody
  split
  · exact movesOnly_refl _ _
  · exact (movesOnly_refl _ _).setEng _

theorem bbAppendBody_movesOnly (b : Bool) (s : State) : (bbAppendBody b s).MovesOnly [] s := by
  unfold bbAppendBody
  split
  · exact movesOnly_refl _ _
  · exact (movesOnly_refl _ _).setEng _

theorem bbGetBody_movesOnly (n : BitVec 32) (s : State) : (bbGetBody n s).MovesOnly [] s := by
  unfold bbGetBody
  split
  · exact movesOnly_refl _ _
  · exact (movesOnly_refl _ _).setEng _

theorem encodeBody_movesOnly (n : BitVec 32) (s : State) : (encodeBody n s).MovesOnly [.symIn, .out] s := by
  have hread := fun k => (movesOnly_readSym (streams := [.symIn, .out]) List.mem_cons_self s k).setEng
  unfold encodeBody
  dsimp only
  split
  · exact hread _ _
  · exact hread _ _
  · split
    · exact atEndOfSym_movesOnly (hread _ _) (hread _ _)
    · exact encodeFinish_movesOnly _ (by simp) (hread _ _)

theorem decodeBbBody_movesOnly (s : State) : (decodeBbBody s).MovesOnly [.symOut] s := by
  refine finishWalk_movesOnly List.mem_cons_self (movesOnly_refl _ s) (fun w v hv => ?_) _
  exact hv

theorem decodeStreamBody_movesOnly (cap : BitVec 32) (s : State) :
    (decodeStreamBody cap s).MovesOnly [.inp, .symOut] s := by
  unfold decodeStreamBody
  refine finishWalk_movesOnly (streams := [.inp, .symOut]) (by simp) (movesOnly_readIn List.mem_cons_self s _)
    (fun w v hv => ?_) _
  exact atEndOfIn_movesOnly hv hv

/-- R54: a body moves the streams of its command alone. -/
theorem commandBody_movesOnly (i : Instr) (s : State) : (commandBody i s).MovesOnly (streamsOf i) s := by
  cases i with
  | nop | reset | errAck => exact movesOnly_refl _ s
  | setTerm | freqClear | freqSet | bbClear => exact (movesOnly_refl _ s).setEng _
  | build => exact buildBody_movesOnly s
  | tableExport =>
    exact needTree_movesOnly (body := fun s => .ok (s.writeOut (exportText s.eng.ct)))
      ((movesOnly_refl _ s).writeOut List.mem_cons_self _)
  | tableImport n => exact (loadBuffer_movesOnly List.mem_cons_self (fun _ => importStaged_movesOnly)).of_setEng
  | ctRead x => exact needTree_movesOnly (ctReadBody_movesOnly x s)
  | encode n => exact needTree_movesOnly (encodeBody_movesOnly n s)
  | decodeBb => exact needTree_movesOnly (decodeBbBody_movesOnly s)
  | decodeStream cap => exact needTree_movesOnly (decodeStreamBody_movesOnly cap s)
  | bbAppend b => exact bbAppendBody_movesOnly b s
  | bbGet n => exact bbGetBody_movesOnly n s
  | bbEmit => exact (movesOnly_refl _ s).writeOut List.mem_cons_self _
  | bbLoad n => exact loadBuffer_movesOnly List.mem_cons_self (fun _ hu => hu)

/-! ### The command, and the step -/

/-- Dropped, ended or raised, a command moves the streams its body moves (R226, R228). -/
theorem runCommand_movesOnly {op : BitVec 8} {body : State → Result} {streams : List Stream} {s t : State}
    (h : runCommand op body s = .next t)
    (hbody : (body (s.setEng s.eng.zeroCounters)).MovesOnly streams (s.setEng s.eng.zeroCounters)) :
    s.MovesOnly streams t := by
  obtain ⟨-, rfl⟩ | ⟨-, hok⟩ | ⟨-, u, code, i0, i1, hraise, rfl⟩ := runCommand_next h
  · exact (movesOnly_refl _ _).setEng _
  · rw [hok] at hbody
    exact State.MovesOnly.of_setEng hbody
  · rw [hraise] at hbody
    exact (State.MovesOnly.of_setEng hbody).setEng _

theorem exec_movesOnly {i : Instr} {s t : State} (h : exec i s = .next t) : s.MovesOnly (streamsOf i) t := by
  by_cases hreset : i = .reset
  · subst hreset
    cases h
    exact (movesOnly_refl _ _).setEng _
  by_cases hack : i = .errAck
  · subst hack
    cases h
    exact (movesOnly_refl _ _).setEng _
  rw [exec_eq_runCommand hreset hack] at h
  exact runCommand_movesOnly h (commandBody_movesOnly i _)

/-! ### Readers and writers (R56 to R59) -/

theorem inp_notMem_streamsOf {i : Instr} (hload : ∀ n, i ≠ .bbLoad n) (himport : ∀ n, i ≠ .tableImport n)
    (hdecode : ∀ n, i ≠ .decodeStream n) : Stream.inp ∉ streamsOf i := by
  cases i <;> simp_all [streamsOf]

theorem symIn_notMem_streamsOf {i : Instr} (hencode : ∀ n, i ≠ .encode n) : Stream.symIn ∉ streamsOf i := by
  cases i <;> simp_all [streamsOf]

theorem out_notMem_streamsOf {i : Instr} (hemit : i ≠ .bbEmit) (hexport : i ≠ .tableExport)
    (hencode : ∀ n, i ≠ .encode n) : Stream.out ∉ streamsOf i := by
  cases i <;> simp_all [streamsOf]

theorem symOut_notMem_streamsOf {i : Instr} (hbb : i ≠ .decodeBb) (hstream : ∀ n, i ≠ .decodeStream n) :
    Stream.symOut ∉ streamsOf i := by
  cases i <;> simp_all [streamsOf]

/-- Settles O56: each command moves its own streams alone, and a stream is moved by the commands that list it. -/
theorem streamEffects : Obligations.StreamEffects := by
  intro s t i h
  have hmoves := exec_movesOnly h
  exact ⟨hmoves.inp, hmoves.symIn, hmoves.out, hmoves.symOut, hmoves.host, hmoves.readData,
    fun hload himport hdecode => hmoves.inpKept (inp_notMem_streamsOf hload himport hdecode),
    fun hencode => hmoves.symInKept (symIn_notMem_streamsOf hencode),
    fun hemit hexport hencode => hmoves.outKept (out_notMem_streamsOf hemit hexport hencode),
    fun hbb hstream => hmoves.symOutKept (symOut_notMem_streamsOf hbb hstream)⟩

/-! ### Steps that answer (R229, R259) -/

/-- R259: where the host ends both input streams, no body waits for ever. -/
theorem Result.MovesOnly.ne_stuck {streams : List Stream} {s : State} {r : Result} (h : r.MovesOnly streams s)
    (hduties : s.HostDuties) (f : Fault) : r ≠ .stuck f := by
  obtain ⟨hin, hsym⟩ := hduties
  rintro rfl
  cases f with
  | stuckIn => exact absurd (hin.symm.trans h) (by simp)
  | stuckSymIn => exact absurd (hsym.symm.trans h) (by simp)

/-- R229: dropped, ended or raised, a command whose body does not wait for ever answers a next state. -/
theorem runCommand_answers {op : BitVec 8} {body : State → Result} {s : State}
    (hbody : ∀ f, body (s.setEng s.eng.zeroCounters) ≠ .stuck f) : ∃ t, runCommand op body s = .next t := by
  cases herr : s.eng.err with
  | true => exact ⟨_, runCommand_dropped op body herr⟩
  | false =>
    rw [runCommand_runs op body herr]
    cases hr : body (s.setEng s.eng.zeroCounters) with
    | ok u => exact ⟨_, finish_ok op u⟩
    | raised u code i0 i1 => exact ⟨_, finish_raised op u code i0 i1⟩
    | stuck f => exact absurd hr (hbody f)

theorem exec_answers (i : Instr) {s : State} (hduties : s.HostDuties) : ∃ t, exec i s = .next t := by
  by_cases hreset : i = .reset
  · exact hreset ▸ ⟨_, rfl⟩
  by_cases hack : i = .errAck
  · exact hack ▸ ⟨_, rfl⟩
  rw [exec_eq_runCommand hreset hack]
  exact runCommand_answers ((commandBody_movesOnly i _).ne_stuck hduties)

theorem issue_answers (d : Descriptor) {s : State} (hduties : s.HostDuties) : ∃ t, issue d s = .next t := by
  unfold issue
  split
  · exact exec_answers _ hduties
  · exact runCommand_answers (by simp)

/-- Settles O57: a command waits for ever only where the host withholds a unit; the other moves answer at once. -/
theorem noStopUnderHostDuties : Obligations.NoStopUnderHostDuties := by
  intro s hduties
  cases hhost : s.host with
  | nil => exact ⟨s, step_idle hhost⟩
  | cons a rest =>
    rw [step_hostMove hhost]
    cases a with
    | command d => exact issue_answers d hduties
    | supplyIn | supplySym | readRegister | consumeIn | assertReset => exact ⟨_, rfl⟩

end Sys2Proof.Machine
end

section
/-! The decoder by operand forms: each row of the opcode table has one of six forms, and what decoding answers for a
form gives the round trip with the encoder, the match and mask table and the order of the checks (30_encoding.md R70 to
R77). -/

namespace Sys2Proof

open Machine

/-! ### The five fields (R70) -/

/-- The five fields, one after another, are all 128 bits. -/
theorem fields_append (d : Descriptor) : valField d ++ nField d ++ symField d ++ rsvField d ++ opField d = d := by
  unfold opField rsvField symField nField valField
  rw [BitVec.extractLsb'_append_extractLsb'_eq_extractLsb' (by rfl),
    BitVec.extractLsb'_append_extractLsb'_eq_extractLsb' (by rfl),
    BitVec.extractLsb'_append_extractLsb'_eq_extractLsb' (by rfl),
    BitVec.extractLsb'_append_extractLsb'_eq_extractLsb' (by rfl)]
  exact BitVec.extractLsb'_eq_self

theorem descriptor_ext_iff {d d' : Descriptor} :
    d = d' ↔ opField d = opField d' ∧ rsvField d = rsvField d' ∧ symField d = symField d' ∧ nField d = nField d' ∧
      valField d = valField d' := by
  constructor
  · rintro rfl
    simp
  · rintro ⟨hop, hrsv, hsym, hn, hval⟩
    rw [← fields_append d, ← fields_append d', hop, hrsv, hsym, hn, hval]

theorem eq_packFields_iff {d : Descriptor} {op : BitVec 8} {sym : BitVec 16} {n : BitVec 32} {val : BitVec 64} :
    d = packFields op sym n val ↔
      opField d = op ∧ rsvField d = 0#8 ∧ symField d = sym ∧ nField d = n ∧ valField d = val := by
  simp [descriptor_ext_iff (d' := packFields op sym n val)]

theorem opField_and (d m : Descriptor) : opField (d &&& m) = opField d &&& opField m := BitVec.extractLsb'_and ..
theorem rsvField_and (d m : Descriptor) : rsvField (d &&& m) = rsvField d &&& rsvField m := BitVec.extractLsb'_and ..
theorem symField_and (d m : Descriptor) : symField (d &&& m) = symField d &&& symField m := BitVec.extractLsb'_and ..
theorem nField_and (d m : Descriptor) : nField (d &&& m) = nField d &&& nField m := BitVec.extractLsb'_and ..
theorem valField_and (d m : Descriptor) : valField (d &&& m) = valField d &&& valField m := BitVec.extractLsb'_and ..

/-! ### The operands in their fields (R71) -/

theorem ushiftRight_eq_zero_iff {n : Nat} (v : Nat) (x : BitVec n) : x >>> v = 0#n ↔ x.toNat < 2 ^ v := by
  rw [← BitVec.toNat_inj, BitVec.toNat_ushiftRight, Nat.shiftRight_eq_div_pow, BitVec.toNat_ofNat, Nat.zero_mod,
    Nat.div_eq_zero_iff]
  simp

/-- A field holds the extension of a shorter word where its upper part is 0, and the word is then its lower part. -/
theorem eq_setWidth_iff {n v : Nat} (hv : v ≤ n) (x : BitVec n) (y : BitVec v) :
    x = y.setWidth n ↔ x >>> v = 0#n ∧ x.setWidth v = y := by
  rw [ushiftRight_eq_zero_iff]
  constructor
  · rintro rfl
    exact ⟨(BitVec.toNat_setWidth_of_le hv).trans_lt y.isLt, by simp [hv]⟩
  · rintro ⟨hlt, rfl⟩
    apply BitVec.eq_of_toNat_eq
    rw [BitVec.toNat_setWidth_of_le hv, BitVec.toNat_setWidth, Nat.mod_eq_of_lt hlt]

/-- Masking a field's upper part finds the same bits as shifting it down. -/
theorem and_upper_eq_zero_iff {n : Nat} (v : Nat) (x : BitVec n) :
    x &&& BitVec.allOnes n <<< v = 0#n ↔ x >>> v = 0#n := by
  simp only [BitVec.eq_of_getLsbD_eq_iff, BitVec.getLsbD_and, BitVec.getLsbD_shiftLeft, BitVec.getLsbD_allOnes,
    BitVec.getLsbD_ushiftRight, BitVec.getLsbD_zero]
  constructor
  · intro h i hi
    by_cases hvi : v + i < n
    · simpa [hvi, Nat.not_le_of_lt hi] using h (v + i) hvi
    · exact BitVec.getLsbD_of_ge _ _ (Nat.le_of_not_lt hvi)
  · intro h i hi
    by_cases hiv : i < v
    · simp [hiv]
    · have := h (i - v) (by omega)
      rw [Nat.add_sub_cancel' (Nat.le_of_not_lt hiv)] at this
      simp [this]

/-! ### Operand forms (R73, R74) -/

/-- What a row of R73 uses of the descriptor: OP alone, whatever the rest (R76), or with every unused field 0 no operand,
SYM, SYM and VAL, N, or the bit `VAL[0]`; with the command that these operands make. -/
inductive OperandForm where
  | ignored (i : Instr)
  | plain (i : Instr)
  | sym (f : Sym → Instr)
  | symVal (f : Sym → BitVec 64 → Instr)
  | count (f : BitVec 32 → Instr)
  | bit (f : Bool → Instr)

/-- R73: each OP value with its row's form. -/
def commandForms : List (BitVec 8 × OperandForm) := [
  (0x00#8, .plain .nop), (0x01#8, .ignored .reset), (0x02#8, .ignored .errAck), (0x03#8, .sym .setTerm),
  (0x10#8, .plain .freqClear), (0x11#8, .symVal .freqSet),
  (0x20#8, .plain .build), (0x21#8, .plain .tableExport), (0x22#8, .count .tableImport), (0x23#8, .sym .ctRead),
  (0x30#8, .count .encode), (0x31#8, .plain .decodeBb), (0x32#8, .count .decodeStream),
  (0x40#8, .plain .bbClear), (0x41#8, .bit .bbAppend), (0x42#8, .count .bbGet), (0x43#8, .plain .bbEmit),
  (0x44#8, .count .bbLoad)]

/-- The checks of a form. -/
def OperandForm.decode (d : Descriptor) : OperandForm → Decoded
  | .ignored i => .ok i
  | .plain i => decodePlain d i
  | .sym f => decodeSym d f
  | .symVal f => decodeSymVal d f
  | .count f => decodeN d f
  | .bit f => decodeBit d f

/-- The descriptor `d` with this OP is of this form and makes the command `i`. -/
def OperandForm.Reads (op : BitVec 8) (d : Descriptor) (i : Instr) : OperandForm → Prop
  | .ignored j => j = i ∧ opField d = op
  | .plain j => j = i ∧ d = packFields op 0 0 0
  | .sym f => ∃ s, f s = i ∧ d = packFields op (symOfOperand s) 0 0
  | .symVal f => ∃ s v, f s v = i ∧ d = packFields op (symOfOperand s) 0 v
  | .count f => ∃ n, f n = i ∧ d = packFields op 0 n 0
  | .bit f => ∃ b, f b = i ∧ d = packFields op 0 0 ((BitVec.ofBool b).setWidth 64)

/-- Five fields laid out in one descriptor, RSV among them. -/
def layout (op rsv : BitVec 8) (sym : BitVec 16) (n : BitVec 32) (val : BitVec 64) : Descriptor :=
  val ++ n ++ sym ++ rsv ++ op

/-- R74's mask of a form: OP and RSV, every field it does not use, and above the bits it uses of SYM or VAL. -/
def OperandForm.mask : OperandForm → Descriptor
  | .ignored _ => layout (BitVec.allOnes 8) 0 0 0 0
  | .plain _ =>
    layout (BitVec.allOnes 8) (BitVec.allOnes 8) (BitVec.allOnes 16) (BitVec.allOnes 32) (BitVec.allOnes 64)
  | .sym _ =>
    layout (BitVec.allOnes 8) (BitVec.allOnes 8) (BitVec.allOnes 16 <<< Config.symw) (BitVec.allOnes 32)
      (BitVec.allOnes 64)
  | .symVal _ => layout (BitVec.allOnes 8) (BitVec.allOnes 8) (BitVec.allOnes 16 <<< Config.symw) (BitVec.allOnes 32) 0
  | .count _ => layout (BitVec.allOnes 8) (BitVec.allOnes 8) (BitVec.allOnes 16) 0 (BitVec.allOnes 64)
  | .bit _ =>
    layout (BitVec.allOnes 8) (BitVec.allOnes 8) (BitVec.allOnes 16) (BitVec.allOnes 32) (BitVec.allOnes 64 <<< 1)

/-- `decode` runs the checks of the row that its OP names. -/
theorem decode_of_mem {d : Descriptor} : ∀ p ∈ commandForms, opField d = p.1 → decode d = p.2.decode d := by
  simp only [commandForms, List.forall_mem_cons, List.not_mem_nil, false_imp_iff, implies_true, and_true]
  and_intros
  all_goals
    intro hop
    rw [decode, hop]
    rfl

/-- R74 (1): an OP that no row has. -/
theorem decode_of_forall_ne {d : Descriptor} (h : ∀ p ∈ commandForms, opField d ≠ p.1) :
    decode d = .illegal .unknownOp := by
  simp only [commandForms, List.forall_mem_cons, List.not_mem_nil, false_imp_iff, implies_true, and_true, ne_eq,
    ← BitVec.toNat_inj, BitVec.toNat_ofNat] at h
  unfold decode
  split
  case h_19 => rfl
  all_goals simp_all

theorem OperandForm.decode_ne_unknownOp (F : OperandForm) (d : Descriptor) : F.decode d ≠ .illegal .unknownOp := by
  cases F with
  | ignored i => simp [OperandForm.decode]
  | plain i => simp [OperandForm.decode, decodePlain, ite_eq_iff]
  | sym f => simp [OperandForm.decode, decodeSym, ite_eq_iff]
  | symVal f => simp [OperandForm.decode, decodeSymVal, ite_eq_iff]
  | count f => simp [OperandForm.decode, decodeN, ite_eq_iff]
  | bit f => simp [OperandForm.decode, decodeBit, ite_eq_iff]

/-- R74's order: OP is looked at first, and an unknown one is answered whatever the other bits. -/
theorem decode_eq_unknownOp_iff {d : Descriptor} :
    decode d = .illegal .unknownOp ↔ ∀ p ∈ commandForms, opField d ≠ p.1 := by
  refine ⟨fun h p hp hop => ?_, decode_of_forall_ne⟩
  rw [decode_of_mem p hp hop] at h
  exact p.2.decode_ne_unknownOp d h

/-- Any other answer is that of the checks of OP's row. -/
theorem decode_eq_iff {d : Descriptor} {o : Decoded} (ho : o ≠ .illegal .unknownOp) :
    decode d = o ↔ ∃ p ∈ commandForms, opField d = p.1 ∧ p.2.decode d = o := by
  constructor
  · intro h
    by_contra hnone
    refine ho (h.symm.trans (decode_eq_unknownOp_iff.2 fun p hp hop => hnone ⟨p, hp, hop, ?_⟩))
    rw [← decode_of_mem p hp hop, h]
  · rintro ⟨p, hp, hop, h⟩
    rw [decode_of_mem p hp hop, h]

/-! ### What the checks of each form accept (R74) -/

theorem symField_eq_iff {d : Descriptor} {s : Sym} :
    symField d = symOfOperand s ↔ symInRange d = true ∧ symOperand d = s := by
  rw [symOperand_eq, symInRange, beq_iff_eq]
  exact eq_setWidth_iff (by decide) _ _

theorem valField_eq_bit_iff {d : Descriptor} {b : Bool} :
    valField d = (BitVec.ofBool b).setWidth 64 ↔ valField d >>> 1 = 0#64 ∧ bitOperand d = b := by
  have hbit : (valField d).setWidth 1 = BitVec.ofBool (bitOperand d) := by
    ext i hi
    obtain rfl : i = 0 := by omega
    simp [bitOperand_eq]
  rw [eq_setWidth_iff (by decide), hbit]
  cases b <;> cases bitOperand d <;> simp

/-- A form's checks pass exactly on the descriptors of its form. -/
theorem OperandForm.decode_eq_ok_iff {F : OperandForm} {op : BitVec 8} {d : Descriptor} {i : Instr} :
    opField d = op ∧ F.decode d = .ok i ↔ F.Reads op d i := by
  cases F with
  | ignored j => simp [OperandForm.decode, Reads, and_comm]
  | plain | count =>
    simp only [OperandForm.decode, Reads, decodePlain, decodeN, eq_packFields_iff]
    split <;> simp_all [and_comm]
  | sym | symVal =>
    simp only [OperandForm.decode, Reads, decodeSym, decodeSymVal, eq_packFields_iff, symField_eq_iff]
    split
    · split <;> simp_all [and_comm]
    · simp_all
  | bit f =>
    simp only [OperandForm.decode, Reads, decodeBit, eq_packFields_iff, valField_eq_bit_iff]
    split <;> simp_all [and_comm]

theorem decode_eq_ok_iff {d : Descriptor} {i : Instr} :
    decode d = .ok i ↔ ∃ p ∈ commandForms, p.2.Reads p.1 d i := by
  simp only [decode_eq_iff (o := .ok i) (by simp), OperandForm.decode_eq_ok_iff]

/-! ### The encoder (R77) -/

/-- The form of a command's row in R73. -/
def Instr.form : Instr → OperandForm
  | .nop => .plain .nop
  | .reset => .ignored .reset
  | .errAck => .ignored .errAck
  | .setTerm _ => .sym .setTerm
  | .freqClear => .plain .freqClear
  | .freqSet _ _ => .symVal .freqSet
  | .build => .plain .build
  | .tableExport => .plain .tableExport
  | .tableImport _ => .count .tableImport
  | .ctRead _ => .sym .ctRead
  | .encode _ => .count .encode
  | .decodeBb => .plain .decodeBb
  | .decodeStream _ => .count .decodeStream
  | .bbClear => .plain .bbClear
  | .bbAppend _ => .bit .bbAppend
  | .bbGet _ => .count .bbGet
  | .bbEmit => .plain .bbEmit
  | .bbLoad _ => .count .bbLoad

theorem form_mem_commandForms (i : Instr) : (opcode i, i.form) ∈ commandForms := by
  cases i <;> simp [commandForms, opcode, Instr.form]

/-- A command's encoding is a descriptor of its form with its operands. -/
theorem encode_reads (i : Instr) : i.form.Reads (opcode i) (encode i) i := by
  cases i with
  | reset => exact ⟨rfl, Laws.OpByte.reset.1⟩
  | errAck => exact ⟨rfl, Laws.OpByte.errAck.1⟩
  | nop | freqClear | build | tableExport | decodeBb | bbClear | bbEmit => exact ⟨rfl, rfl⟩
  | setTerm s | ctRead s => exact ⟨s, rfl, rfl⟩
  | freqSet s v => exact ⟨s, v, rfl, rfl⟩
  | tableImport n | encode n | decodeStream n | bbGet n | bbLoad n => exact ⟨n, rfl, rfl⟩
  | bbAppend b => exact ⟨b, rfl, rfl⟩

/-- Settles O1: the encoding has the form of the command's row, and the row's checks read the operands back. -/
theorem decodeOfEncode : Obligations.DecodeOfEncode :=
  fun i => decode_eq_ok_iff.2 ⟨_, form_mem_commandForms i, encode_reads i⟩

/-- The encoder lays the operands of a form's commands out as the form reads them. -/
def OperandForm.EncodedAs (op : BitVec 8) : OperandForm → Prop
  | .ignored i => i = .reset ∨ i = .errAck
  | .plain i => encode i = packFields op 0 0 0
  | .sym f => ∀ s, encode (f s) = packFields op (symOfOperand s) 0 0
  | .symVal f => ∀ s v, encode (f s v) = packFields op (symOfOperand s) 0 v
  | .count f => ∀ n, encode (f n) = packFields op 0 n 0
  | .bit f => ∀ b, encode (f b) = packFields op 0 0 ((BitVec.ofBool b).setWidth 64)

theorem commandForms_encodedAs : ∀ p ∈ commandForms, p.2.EncodedAs p.1 := by
  simp [commandForms, OperandForm.EncodedAs, encode, opcode]

theorem OperandForm.Reads.encode_eq {F : OperandForm} {op : BitVec 8} {d : Descriptor} {i : Instr}
    (h : F.Reads op d i) (henc : F.EncodedAs op) (hreset : i ≠ .reset) (hack : i ≠ .errAck) : encode i = d := by
  cases F with
  | ignored j =>
    obtain ⟨rfl, -⟩ := h
    exact absurd henc (not_or.2 ⟨hreset, hack⟩)
  | plain j =>
    obtain ⟨rfl, rfl⟩ := h
    exact henc
  | symVal f =>
    obtain ⟨s, v, rfl, rfl⟩ := h
    exact henc s v
  | sym f | count f | bit f =>
    obtain ⟨a, rfl, rfl⟩ := h
    exact henc a

/-- Settles O2: the row's checks leave nothing of the descriptor open but the operands they read. -/
theorem encodeOfDecode : Obligations.EncodeOfDecode := by
  intro d i h hreset hack
  obtain ⟨p, hp, hreads⟩ := decode_eq_ok_iff.1 h
  exact hreads.encode_eq (commandForms_encodedAs p hp) hreset hack

/-! ### The match and mask table (R74) -/

/-- Masking a descriptor masks each of its fields. -/
theorem and_layout_eq_iff {d : Descriptor} {op op' rsv : BitVec 8} {sym : BitVec 16} {n : BitVec 32} {val : BitVec 64} :
    d &&& layout op rsv sym n val = packFields op' 0 0 0 ↔ opField d &&& op = op' ∧ rsvField d &&& rsv = 0#8 ∧
      symField d &&& sym = 0#16 ∧ nField d &&& n = 0#32 ∧ valField d &&& val = 0#64 := by
  have hop : opField (layout op rsv sym n val) = op := BitVec.extractLsb'_append_eq_right
  have hrsv : rsvField (layout op rsv sym n val) = rsv :=
    (BitVec.extractLsb'_append_eq_of_le (by decide)).trans BitVec.extractLsb'_append_eq_right
  have hsym : symField (layout op rsv sym n val) = sym :=
    (BitVec.extractLsb'_append_eq_of_le (by decide)).trans
      ((BitVec.extractLsb'_append_eq_of_le (by decide)).trans BitVec.extractLsb'_append_eq_right)
  have hn : nField (layout op rsv sym n val) = n :=
    (BitVec.extractLsb'_append_eq_of_le (by decide)).trans
      ((BitVec.extractLsb'_append_eq_of_le (by decide)).trans
        ((BitVec.extractLsb'_append_eq_of_le (by decide)).trans BitVec.extractLsb'_append_eq_right))
  have hval : valField (layout op rsv sym n val) = val :=
    (BitVec.extractLsb'_append_eq_of_le (by decide)).trans
      ((BitVec.extractLsb'_append_eq_of_le (by decide)).trans
        ((BitVec.extractLsb'_append_eq_of_le (by decide)).trans BitVec.extractLsb'_append_eq_left))
  rw [eq_packFields_iff, opField_and, rsvField_and, symField_and, nField_and, valField_and, hop, hrsv, hsym, hn, hval]
  rfl

/-- A form's mask fixes what its checks fix. -/
theorem OperandForm.mask_iff {F : OperandForm} {op : BitVec 8} {d : Descriptor} :
    d &&& F.mask = packFields op 0 0 0 ↔ ∃ i, F.Reads op d i := by
  cases F with
  | ignored j =>
    rw [mask, and_layout_eq_iff, BitVec.and_allOnes]
    simp [Reads]
  | plain | count =>
    rw [mask, and_layout_eq_iff]
    simp only [Reads, BitVec.and_allOnes, eq_packFields_iff]
    simp
  | sym | symVal =>
    rw [mask, and_layout_eq_iff]
    simp only [Reads, BitVec.and_allOnes, and_upper_eq_zero_iff, eq_packFields_iff, symField_eq_iff]
    simp [symInRange]
  | bit f =>
    rw [mask, and_layout_eq_iff]
    simp only [Reads, BitVec.and_allOnes, and_upper_eq_zero_iff, eq_packFields_iff, valField_eq_bit_iff]
    simp

/-- R74's table, row by row, is that of R73's forms. -/
theorem descriptorTable_eq : descriptorTable.map (fun r => (r.pattern, r.mask)) =
    commandForms.map (fun p => (packFields p.1 0 0 0, p.2.mask)) := by
  rfl

/-- What some row of R74's table has, some form of R73 has. -/
theorem any_descriptorTable (q : Descriptor × Descriptor → Bool) :
    descriptorTable.any (fun r => q (r.pattern, r.mask)) = commandForms.any (fun p => q (packFields p.1 0 0 0, p.2.mask)) := by
  have h := congrArg (List.any · q) descriptorTable_eq
  rwa [List.any_map, List.any_map] at h

theorem wellFormed_iff {d : Descriptor} : wellFormed d = true ↔ ∃ p ∈ commandForms, ∃ i, p.2.Reads p.1 d i := by
  have h : wellFormed d = commandForms.any (fun p => d &&& p.2.mask == packFields p.1 0 0 0) :=
    any_descriptorTable (fun q => d &&& q.2 == q.1)
  simp only [h, List.any_eq_true, beq_iff_eq, OperandForm.mask_iff]

theorem knownOp_iff {d : Descriptor} : knownOp d = true ↔ ∃ p ∈ commandForms, opField d = p.1 := by
  have h : knownOp d = commandForms.any (fun p => opField d == opField (packFields p.1 0 0 0)) :=
    any_descriptorTable (fun q => opField d == opField q.1)
  simp only [h, List.any_eq_true, beq_iff_eq, opField_packFields]

/-- Every row fixes OP. -/
theorem opField_of_matches {d : Descriptor} {r : DescriptorRow} (hr : r ∈ descriptorTable) (h : r.matches d = true) :
    opField d = opField r.pattern := by
  have hmask : ∀ r ∈ descriptorTable, opField r.mask = BitVec.allOnes 8 := by decide
  rw [← beq_iff_eq.1 h, opField_and, hmask r hr, BitVec.and_allOnes]

/-- Settles O3: a row's mask and pattern fix what the row's checks fix, and the rows differ in the OP they fix. -/
theorem validExactlyWhenOneRowMatches : Obligations.ValidExactlyWhenOneRowMatches := by
  have hops : (descriptorTable.map (fun r => opField r.pattern)).Nodup := by decide
  refine ⟨fun d => ?_, fun d r r' hr hr' h h' => ?_⟩
  · simp only [wellFormed_iff, decode_eq_ok_iff]
    exact ⟨fun ⟨i, p, hp, h⟩ => ⟨p, hp, i, h⟩, fun ⟨p, hp, i, h⟩ => ⟨i, p, hp, h⟩⟩
  · exact List.inj_on_of_nodup_map hops hr hr' ((opField_of_matches hr h).symm.trans (opField_of_matches hr' h'))

/-! ### The order of the checks (R74, R75) -/

theorem symInRange_eq_false_iff {d : Descriptor} : symInRange d = false ↔ 256 ≤ (symField d).toNat := by
  rw [symInRange, beq_eq_false_iff_ne, ne_eq, ushiftRight_eq_zero_iff, not_lt]
  rfl

theorem decodeSym_eq_symRange_iff {d : Descriptor} {f : Sym → Instr} : decodeSym d f = .illegal .symRange ↔
    256 ≤ (symField d).toNat ∧ rsvField d = 0#8 ∧ nField d = 0#32 ∧ valField d = 0#64 := by
  rw [← symInRange_eq_false_iff]
  unfold decodeSym
  split
  · split <;> simp_all
  · simp_all

theorem decodeSymVal_eq_symRange_iff {d : Descriptor} {f : Sym → BitVec 64 → Instr} :
    decodeSymVal d f = .illegal .symRange ↔ 256 ≤ (symField d).toNat ∧ rsvField d = 0#8 ∧ nField d = 0#32 := by
  rw [← symInRange_eq_false_iff]
  unfold decodeSymVal
  split
  · split <;> simp_all
  · simp_all

/-- R74 (3): SYM's range is checked last, by the forms that use SYM. -/
theorem OperandForm.decode_eq_symRange_iff {F : OperandForm} {d : Descriptor} : F.decode d = .illegal .symRange ↔
    256 ≤ (symField d).toNat ∧ rsvField d = 0#8 ∧ nField d = 0#32 ∧
      ((∃ f, F = .sym f ∧ valField d = 0#64) ∨ ∃ f, F = .symVal f) := by
  cases F with
  | ignored i => simp [OperandForm.decode]
  | plain i => simp [OperandForm.decode, decodePlain, ite_eq_iff]
  | sym f => simp [OperandForm.decode, decodeSym_eq_symRange_iff]
  | symVal f => simp [OperandForm.decode, decodeSymVal_eq_symRange_iff]
  | count f => simp [OperandForm.decode, decodeN, ite_eq_iff]
  | bit f => simp [OperandForm.decode, decodeBit, ite_eq_iff]

theorem sym_mem_commandForms {op : BitVec 8} : (∃ f, (op, .sym f) ∈ commandForms) ↔ op = 0x03#8 ∨ op = 0x23#8 := by
  simp [commandForms, exists_or]

theorem symVal_mem_commandForms {op : BitVec 8} : (∃ f, (op, .symVal f) ∈ commandForms) ↔ op = 0x11#8 := by
  simp [commandForms]

/-- Settles O4: OP is looked at first; the range of SYM last, in the three rows that use it. -/
theorem illegalReasonsInOrder : Obligations.IllegalReasonsInOrder := by
  refine ⟨fun d => ?_, fun d => ?_⟩
  · rw [decode_eq_unknownOp_iff, ← Bool.not_eq_true, knownOp_iff]
    push Not
    rfl
  · rw [decode_eq_iff (by simp)]
    simp only [OperandForm.decode_eq_symRange_iff]
    constructor
    · rintro ⟨⟨op, F⟩, hp, rfl, hsym, hrsv, hn, ⟨f, rfl, hval⟩ | ⟨f, rfl⟩⟩
      · refine ⟨hsym, hrsv, hn, ?_⟩
        obtain h | h := sym_mem_commandForms.1 ⟨f, hp⟩
        · exact .inl ⟨h, hval⟩
        · exact .inr (.inl ⟨h, hval⟩)
      · exact ⟨hsym, hrsv, hn, .inr (.inr (symVal_mem_commandForms.1 ⟨f, hp⟩))⟩
    · rintro ⟨hsym, hrsv, hn, ⟨hop, hval⟩ | ⟨hop, hval⟩ | hop⟩
      · obtain ⟨f, hp⟩ := sym_mem_commandForms.2 (.inl hop)
        exact ⟨_, hp, rfl, hsym, hrsv, hn, .inl ⟨f, rfl, hval⟩⟩
      · obtain ⟨f, hp⟩ := sym_mem_commandForms.2 (.inr hop)
        exact ⟨_, hp, rfl, hsym, hrsv, hn, .inl ⟨f, rfl, hval⟩⟩
      · obtain ⟨f, hp⟩ := symVal_mem_commandForms.2 hop
        exact ⟨_, hp, rfl, hsym, hrsv, hn, .inr ⟨f, rfl⟩⟩

/-- Settles O5: ten closed words, each decoded. -/
theorem sampleWordsDecode : Obligations.SampleWordsDecode := by
  unfold Obligations.SampleWordsDecode
  decide

/-- Settles O8: the descriptor's answer is the reason, and its raise runs in the frame of R228. -/
theorem illegalDescriptorRaises : Obligations.IllegalDescriptorRaises := by
  refine ⟨⟨rfl, rfl, rfl⟩, fun s d r rest hhost hdecode herr => ?_⟩
  have hissue : issue d { s with host := rest } = execIllegal d r { s with host := rest } := by simp [issue, hdecode]
  rw [step_hostMove hhost, hostMove, hissue, execIllegal,
    runCommand_runs (s := { s with host := rest }) _ _ herr]
  rfl

end Sys2Proof
end

section
/-! The form and the length of the table text, and packing unpacked bytes (30_encoding.md R81, R83, 42_code_table.md R143,
20_memory.md R51). -/

namespace Sys2Proof.Machine

/-! ### The form of the text (R81, R83) -/

theorem joinEntries_eq_intersperse (texts : List (List Byte)) :
    joinEntries texts = (texts.intersperse [sepByte]).flatten := by
  induction texts with
  | nil => rfl
  | cons x texts ih =>
    cases texts with
    | nil => simp [joinEntries]
    | cons y texts => simp [joinEntries, ih]

/-- R81: at SYMW = 8 a CHAR is the symbol's byte. -/
theorem charText_eq (s : Sym) : charText s = [s] := by
  show [s.extractLsb' 0 8] = [s]
  rw [BitVec.extractLsb'_eq_self]

theorem entryText_eq (a : Sym × Path) :
    entryText a = a.1 :: 0x3A#8 :: a.2.map (fun b => if b then 0x31#8 else 0x30#8) := by
  rw [entryText, charText_eq]
  rfl

theorem ctEntries_snd (ct : CodeTable) : (ctEntries ct).map Prod.snd = allSyms.filterMap (symGet ct) := by
  simp [ctEntries, List.map_filterMap, Function.comp_def]

/-- Settles O36: the text joins the entries' texts, and its length is R143's sum over their paths. -/
theorem exportTextForm : Obligations.ExportTextForm := by
  refine fun ct => ⟨?_, ?_⟩
  · rw [exportText, joinEntries_eq_intersperse, ctEntries, List.map_filterMap]
    simp only [Option.map_map, Function.comp_def, entryText_eq]
    rfl
  · rw [exportText_length, tableBytes, ← ctEntries_snd, List.map_map, List.length_map]
    rfl

/-! ### Packing unpacked bytes (R51, R101) -/

theorem bitsToNat_append_singleton (bits : List Bool) (b : Bool) :
    bitsToNat (bits ++ [b]) = 2 * bitsToNat bits + b.toNat := by
  simp [bitsToNat]

/-- The lowest `w` bits of a number, the highest of them first. -/
theorem bitsToNat_testBits (n w : Nat) : bitsToNat ((List.range w).reverse.map n.testBit) = n % 2 ^ w := by
  induction w generalizing n with
  | zero => simp [bitsToNat, Nat.mod_one]
  | succ w ih =>
    have hbits : (List.range w).map (n.testBit ∘ Nat.succ) = (List.range w).map (n / 2).testBit :=
      List.map_congr_left fun i _ => Nat.testBit_succ ..
    rw [List.range_succ_eq_map, List.reverse_cons, List.map_append, List.map_reverse, List.map_map, hbits,
      ← List.map_reverse, List.map_singleton, bitsToNat_append_singleton, ih, Nat.toNat_testBit, Nat.pow_succ',
      Nat.mod_mul, Nat.pow_zero, Nat.div_one, Nat.add_comm]

theorem byteOfBits_byteBits (x : Byte) : byteOfBits (byteBits x) = x := by
  have h : bitsToNat (byteBits x) = x.toNat := (bitsToNat_testBits x.toNat 8).trans (Nat.mod_eq_of_lt x.isLt)
  show BitVec.ofNat 8 (bitsToNat (byteBits x)) = x
  rw [h, BitVec.ofNat_toNat, BitVec.setWidth_eq]

theorem packBytes_bytesToBits (bytes : List Byte) : packBytes (bytesToBits bytes) = bytes := by
  induction bytes with
  | nil => rfl
  | cons x bytes ih =>
    rw [bytesToBits_cons]
    exact congrArg₂ List.cons (byteOfBits_byteBits x) ih

end Sys2Proof.Machine
end

section
/-! TABLE_IMPORT's arena: entries that do not conflict are accepted, and R156 numbers the records in the order in which it
first comes by the prefixes of the paths (42_code_table.md R156, R158). -/

namespace Sys2Proof.Machine

/-! ### The order of first creation (R156) -/

theorem getElem?_snoc_eq_some_iff {α : Type} {l : List α} {a b : α} {n : Nat} :
    (l ++ [a])[n]? = some b ↔ l[n]? = some b ∨ (b = a ∧ n = l.length) := by
  rw [List.getElem?_append]
  split
  · simp [Nat.ne_of_lt ‹_›]
  · rename_i hn
    have hlast : n - l.length = 0 ↔ n = l.length := by omega
    rw [List.getElem?_eq_none (Nat.le_of_not_lt hn), List.getElem?_singleton]
    simp [hlast, and_comm, eq_comm]

section
variable {α : Type} [BEq α] [LawfulBEq α] {l : List α} {a : α}

theorem eraseDups_snoc_of_mem (h : a ∈ l) : (l ++ [a]).eraseDups = l.eraseDups := by
  simp [List.eraseDups_append, List.removeAll, h]

theorem eraseDups_snoc_of_not_mem (h : a ∉ l) : (l ++ [a]).eraseDups = l.eraseDups ++ [a] := by
  have hone : [a].eraseDups = [a] := by simp [List.eraseDups_cons]
  simp [List.eraseDups_append, List.removeAll, h, hone]

theorem nodup_eraseDups (l : List α) : l.eraseDups.Nodup := by
  induction l using List.reverseRecOn with
  | nil => simp
  | append_singleton l a ih =>
    by_cases h : a ∈ l
    · rwa [eraseDups_snoc_of_mem h]
    · rw [eraseDups_snoc_of_not_mem h, List.nodup_append']
      exact ⟨ih, List.nodup_singleton a, by simpa using h⟩

theorem length_eraseDups_le_append (l m : List α) : l.eraseDups.length ≤ (l ++ m).eraseDups.length := by
  rw [List.eraseDups_append, List.length_append]
  exact Nat.le_add_right _ _

theorem length_eraseDups [DecidableEq α] (l : List α) : l.eraseDups.length = l.dedup.length := by
  refine List.Perm.length_eq ((List.perm_ext_iff_of_nodup (nodup_eraseDups l) (List.nodup_dedup l)).2 fun a => ?_)
  rw [List.mem_eraseDups, List.mem_dedup]

end

/-- The prefixes that a walk along `p` comes by after `q`, in the order of the walk. -/
def descents (q : Path) : Path → List Path
  | [] => []
  | b :: p => (q ++ [b]) :: descents (q ++ [b]) p

theorem descents_eq (q p : Path) : descents q p = p.inits.tail.map (q ++ ·) := by
  induction p generalizing q with
  | nil => rfl
  | cons b p ih =>
    rw [descents, ih]
    cases p <;> simp [Function.comp_def]

theorem inits_eq_descents (p : Path) : p.inits = [] :: descents [] p := by
  cases p <;> simp [descents_eq]

/-- The root and the prefixes of the entries' paths, in the order in which R156 comes by them. -/
def visited (entries : List (Sym × Path)) : List Path := [] :: entries.flatMap (fun a => a.2.inits)

theorem visited_snoc (entries : List (Sym × Path)) (x : Sym) (p : Path) :
    visited (entries ++ [(x, p)]) = visited entries ++ [[]] ++ descents [] p := by
  simp [visited, inits_eq_descents]

theorem mem_visited {entries : List (Sym × Path)} {q : Path} :
    q ∈ visited entries ↔ q = [] ∨ ∃ a ∈ entries, q <+: a.2 := by
  simp [visited]

theorem eraseDups_visited {entries : List (Sym × Path)} (hne : entries ≠ []) :
    (visited entries).eraseDups = prefixOrder entries := by
  obtain ⟨a, entries, rfl⟩ := List.exists_cons_of_ne_nil hne
  simp [visited, prefixOrder, inits_eq_descents a.2, List.eraseDups_cons]

/-- The places of the paths in the order of first visit are the handles of the records that they lead to. -/
def Numbered (nodes : List Node) (paths : List Path) : Prop :=
  ∀ (q : Path) (h : Handle), walkPath nodes 0 q = some h ↔ paths.eraseDups[h]? = some q

theorem Numbered.mem_iff {nodes : List Node} {paths : List Path} (hN : Numbered nodes paths) {q : Path} :
    q ∈ paths ↔ ∃ h, walkPath nodes 0 q = some h := by
  rw [← List.mem_eraseDups, List.mem_iff_getElem?]
  exact exists_congr fun h => (hN q h).symm

theorem Numbered.snoc_of_mem {nodes : List Node} {paths : List Path} (hN : Numbered nodes paths) {q : Path}
    (hq : q ∈ paths) : Numbered nodes (paths ++ [q]) := by
  unfold Numbered
  rwa [eraseDups_snoc_of_mem hq]

theorem Rebuilt.lt_length_of_walkPath {nodes : List Node} (hR : Rebuilt nodes) {q : Path} {c : Nat}
    (hq : walkPath nodes 0 q = some c) : c < nodes.length := by
  obtain rfl | ⟨q, b, rfl⟩ := List.eq_nil_or_concat' q
  · cases hq
    obtain ⟨l, r, hroot⟩ := hR.rootInternal
    exact lt_length_of_record hroot
  · obtain ⟨g, -, hg⟩ := walkPath_snoc.1 hq
    exact hR.linked hg

theorem Numbered.length_eq {nodes : List Node} {paths : List Path} (hN : Numbered nodes paths) (hR : Rebuilt nodes) :
    nodes.length = paths.eraseDups.length := by
  refine eq_of_forall_lt_iff fun c => ⟨fun hc => ?_, fun hc => ?_⟩
  · obtain ⟨q, hq⟩ := hR.reached hc
    exact (List.getElem?_eq_some_iff.1 ((hN q c).1 hq)).1
  · exact hR.lt_length_of_walkPath ((hN _ c).2 (List.getElem?_eq_getElem hc))

/-- Where a link is missing, no path goes on. -/
theorem Numbered.missing_notMem {nodes : List Node} {paths : List Path} {q : Path} {h : Handle} {l r : Option Handle}
    {b : Bool} (hN : Numbered nodes paths) (hh : nodes[h]? = some (.internal l r)) (hnone : childOf l r b = none)
    (hq : walkPath nodes 0 q = some h) : q ++ [b] ∉ paths := by
  rw [hN.mem_iff]
  rintro ⟨c, hc⟩
  rw [walkPath_append, hq] at hc
  simp [walkPath, nextNode_internal hh, hnone] at hc

/-- A record added where a link was missing is at the end of one path alone; every other path leads where it led. -/
theorem Rebuilt.walkPath_withChild {nodes : List Node} {q p : Path} {h c : Nat} {l r : Option Handle} {b : Bool}
    (hR : Rebuilt nodes) (hR' : Rebuilt (Machine.withChild nodes h l r b)) (hh : nodes[h]? = some (.internal l r))
    (hnone : childOf l r b = none) (hq : walkPath nodes 0 q = some h) :
    walkPath (Machine.withChild nodes h l r b) 0 p = some c ↔
      walkPath nodes 0 p = some c ∨ (p = q ++ [b] ∧ c = nodes.length) := by
  have hold : ∀ {p c}, walkPath nodes 0 p = some c → walkPath (Machine.withChild nodes h l r b) 0 p = some c :=
    walkPath_mono (withChild_extends hh hnone).links
  have hnew : walkPath (Machine.withChild nodes h l r b) 0 (q ++ [b]) = some nodes.length :=
    walkPath_snoc.2 ⟨h, hold hq, (nextNode_withChild hh hnone h b).trans (if_pos ⟨rfl, rfl⟩)⟩
  constructor
  · intro hp
    have hlast := hR'.lt_length_of_walkPath hp
    simp only [Machine.withChild, List.length_append, List.length_set, List.length_singleton] at hlast
    obtain hlt | rfl := Nat.lt_succ_iff_lt_or_eq.1 hlast
    · obtain ⟨p', hp'⟩ := hR.reached hlt
      exact .inl (hR'.path_unique hp (hold hp') ▸ hp')
    · exact .inr ⟨hR'.path_unique hp hnew, rfl⟩
  · rintro (hp | ⟨rfl, rfl⟩)
    · exact hold hp
    · exact hnew

/-- R156: the added record gets the next handle, and the path to it comes next in the order. -/
theorem Numbered.withChild {nodes : List Node} {paths : List Path} {q : Path} {h : Nat} {l r : Option Handle} {b : Bool}
    (hN : Numbered nodes paths) (hR : Rebuilt nodes) (hR' : Rebuilt (Machine.withChild nodes h l r b))
    (hh : nodes[h]? = some (.internal l r)) (hnone : childOf l r b = none) (hq : walkPath nodes 0 q = some h) :
    Numbered (Machine.withChild nodes h l r b) (paths ++ [q ++ [b]]) := by
  intro p c
  rw [hR.walkPath_withChild hR' hh hnone hq, hN p c, eraseDups_snoc_of_not_mem (hN.missing_notMem hh hnone hq),
    getElem?_snoc_eq_some_iff, hN.length_eq hR]

/-- R156: the walk along a path that no leaf stands on, in an arena with room for it. -/
theorem insertWalk_succeeds {e : Nat} {nodes : List Node} {paths : List Path} {ct : CodeTable} {h : Handle} {q p : Path}
    (hR : Rebuilt nodes) (hC : Coded nodes 0 ct) (hN : Numbered nodes paths) (hq : walkPath nodes 0 q = some h)
    (hfree : ∀ x r, symGet ct x = some r → ¬ r <+: q ++ p)
    (hcap : (paths ++ descents q p).eraseDups.length ≤ Config.nodeCap) :
    ∃ nodes' h', insertWalk e nodes h p = .ok (nodes', h') ∧ Numbered nodes' (paths ++ descents q p) := by
  induction p generalizing nodes paths h q with
  | nil => exact ⟨nodes, h, rfl, by simpa [descents] using hN⟩
  | cons b p ih =>
    rw [descents, List.append_cons] at hcap ⊢
    have hlt := hR.lt_length_of_walkPath hq
    cases hh : nodes[h]? with
    | none => exact absurd (List.getElem?_eq_none_iff.1 hh) (Nat.not_le_of_lt hlt)
    | some a =>
    cases a with
    | leaf x =>
      obtain ⟨r, hr, hw⟩ := hC.covers hh
      obtain rfl := hR.path_unique hq hw
      exact absurd (List.prefix_append ..) (hfree x q hr)
    | internal l r =>
      have hfree' : ∀ x s, symGet ct x = some s → ¬ s <+: (q ++ [b]) ++ p := by
        simpa [List.append_assoc] using hfree
      cases hc : childOf l r b with
      | some c =>
        have hqb : walkPath nodes 0 (q ++ [b]) = some c :=
          walkPath_snoc.2 ⟨h, hq, (nextNode_internal hh b).trans hc⟩
        simp only [insertWalk, hh, hc]
        exact ih hR hC (hN.snoc_of_mem (hN.mem_iff.2 ⟨c, hqb⟩)) hqb hfree' hcap
      | none =>
        have hroom : nodes.length ≠ Config.nodeCap := by
          have hmore := (length_eraseDups_le_append (paths ++ [q ++ [b]]) (descents (q ++ [b]) p)).trans hcap
          rw [eraseDups_snoc_of_not_mem (hN.missing_notMem hh hc hq), List.length_append, ← hN.length_eq hR] at hmore
          exact Nat.ne_of_lt hmore
        have hR' := hR.withChild hh hc hroom
        have hqb := (hR.walkPath_withChild hR' hh hc hq).2 (.inr ⟨rfl, rfl⟩)
        simp only [insertWalk, hh, hc, if_neg hroom]
        exact ih hR' (hC.extends (withChild_extends hh hc)) (hN.withChild hR hR' hh hc hq) hqb hfree' hcap

/-! ### The entries one after another -/

/-- The reconstruction holds exactly these entries, its records numbered in the order of first visit. -/
structure Rebuild.Holds (t : Rebuild) (entries : List (Sym × Path)) : Prop where
  inv : t.Inv
  entry_iff : ∀ x p, symGet t.ct x = some p ↔ (x, p) ∈ entries
  numbered : Numbered t.nodes (visited entries)

theorem holds_start : Rebuild.start.Holds [] where
  inv := rebuildInv_start
  entry_iff := by simp [Rebuild.start]
  numbered := by
    intro q h
    cases q with
    | nil => cases h <;> simp [visited, walkPath, List.eraseDups_cons]
    | cons b q => cases b <;> cases h <;> simp [visited, walkPath, nextNode, childOf, Rebuild.start, List.eraseDups_cons]

/-- The conditions on a list of entries hold of its first entries. -/
theorem Importable.left {front back : List (Sym × Path)} (h : Importable (front ++ back)) : Importable front where
  symbolsDiffer := (List.map_append ▸ h.symbolsDiffer).of_append_left
  prefixFree := (List.pairwise_append.1 h.prefixFree).1
  pathLengths := fun a ha => h.pathLengths a (List.mem_append_left _ ha)
  arenaBounded := by
    refine le_trans ?_ h.arenaBounded
    rw [List.flatMap_append, ← length_eraseDups, ← length_eraseDups]
    exact length_eraseDups_le_append _ _

theorem Importable.visited_length_le {entries : List (Sym × Path)} (h : Importable entries) (hne : entries ≠ []) :
    (visited entries).eraseDups.length ≤ Config.nodeCap := by
  rw [eraseDups_visited hne, prefixOrder, length_eraseDups]
  exact h.arenaBounded

theorem Numbered.congr {nodes nodes' : List Node} {paths : List Path} (hN : Numbered nodes paths)
    (hlinks : nextNode nodes' = nextNode nodes) : Numbered nodes' paths := by
  intro q h
  rw [← hN q h]
  exact ⟨walkPath_mono fun g b c => by rw [hlinks]; exact id, walkPath_mono fun g b c => by rw [hlinks]; exact id⟩

/-- A record that the walk along a new path ends at is one without children, as no entry's path passes it. -/
theorem Numbered.end_childless {nodes : List Node} {ct : CodeTable} {entries : List (Sym × Path)} {h : Handle} {p : Path}
    {x : Sym} (hN : Numbered nodes (visited (entries ++ [(x, p)]))) (hR : Rebuilt nodes) (hC : Coded nodes 0 ct)
    (hw : walkPath nodes 0 p = some h) (hct : ∀ y r, symGet ct y = some r → ¬ r <+: p)
    (hfree : ∀ a ∈ entries, ¬ p <+: a.2) : nodes[h]? = some (.internal none none) := by
  have hstop : ∀ b, nextNode nodes h b = none := by
    intro b
    by_contra hb
    obtain ⟨c, hc⟩ := Option.ne_none_iff_exists'.1 hb
    have hmem := hN.mem_iff.2 ⟨c, walkPath_snoc.2 ⟨h, hw, hc⟩⟩
    obtain hnil | ⟨a, ha, hpre⟩ := mem_visited.1 hmem
    · simp at hnil
    obtain ha | ha := List.mem_append.1 ha
    · exact hfree a ha ((List.prefix_append p [b]).trans hpre)
    · rw [List.mem_singleton.1 ha] at hpre
      simpa using hpre.length_le
  cases hh : nodes[h]? with
  | none => exact absurd (List.getElem?_eq_none_iff.1 hh) (Nat.not_le_of_lt (hR.lt_length_of_walkPath hw))
  | some a =>
    cases a with
    | leaf y =>
      obtain ⟨r, hr, hwr⟩ := hC.covers hh
      exact absurd (hR.path_unique hwr hw ▸ List.prefix_rfl) (hct y r hr)
    | internal l r =>
      have hl := (nextNode_internal hh false).symm.trans (hstop false)
      have hr := (nextNode_internal hh true).symm.trans (hstop true)
      simp only [childOf, Bool.false_eq_true, if_false, if_true] at hl hr
      rw [hl, hr]

/-- R156: an entry that conflicts with none of those before it is accepted. -/
theorem insertEntry_succeeds {t : Rebuild} {entries : List (Sym × Path)} {x : Sym} {p : Path} (e : Nat)
    (ht : t.Holds entries) (hI : Importable (entries ++ [(x, p)])) :
    ∃ t', insertEntry x p e t = .ok t' ∧ t'.Holds (entries ++ [(x, p)]) := by
  obtain ⟨-, -, hfree⟩ := List.pairwise_append.1 hI.prefixFree
  have hpre : ∀ a ∈ entries, ¬ a.2 <+: p ∧ ¬ p <+: a.2 := fun a ha => hfree a ha (x, p) (List.mem_singleton.2 rfl)
  have hct : ∀ y r, symGet t.ct y = some r → ¬ r <+: p := fun y r hr => (hpre (y, r) ((ht.entry_iff y r).1 hr)).1
  have hnew : ∀ r, (x, r) ∉ entries := by
    have hdiff := hI.symbolsDiffer
    rw [List.map_append, List.nodup_append'] at hdiff
    intro r hr
    exact hdiff.2.2 (List.mem_map_of_mem hr) (by simp)
  have hx : symGet t.ct x = none :=
    Option.eq_none_iff_forall_ne_some.2 fun r hr => hnew r ((ht.entry_iff x r).1 hr)
  obtain ⟨nodes, h, hwalk, hN⟩ := insertWalk_succeeds (e := e) (q := []) (p := p) ht.inv.rebuilt ht.inv.coded
    (ht.numbered.snoc_of_mem (q := []) List.mem_cons_self) rfl hct
    (visited_snoc .. ▸ hI.visited_length_le (by simp))
  rw [← visited_snoc entries x] at hN
  obtain ⟨hR, hext, hw⟩ := insertWalk_ok hwalk ht.inv.rebuilt
  have hh := hN.end_childless hR (ht.inv.coded.extends hext) hw hct (fun a ha => (hpre a ha).2)
  have hok : insertEntry x p e t = .ok { nodes := nodes.set h (.leaf x), ct := symPut t.ct x (some p) } := by
    simp [insertEntry, hx, hwalk, hh]
  have hlen := hI.pathLengths (x, p) (by simp)
  refine ⟨_, hok, insertEntry_inv hok (List.ne_nil_of_length_pos hlen.1) hlen.2 ht.inv, fun y r => ?_,
    hN.congr (nextNode_set_leaf hh rfl rfl x)⟩
  rw [List.mem_append, List.mem_singleton]
  by_cases hy : x = y
  · subst hy
    simp [hnew, eq_comm]
  · rw [symGet_symPut_other _ _ hy, ht.entry_iff]
    simp [Ne.symm hy]

end Sys2Proof.Machine
end

section
/-! TABLE_IMPORT of a table whose entries do not conflict: the parse, entry by entry, and the command (30_encoding.md R82,
42_code_table.md R150 to R158). -/

namespace Sys2Proof.Machine

/-! ### The parse of a table (R150, R151) -/

theorem charSym_singleton (x : Byte) : charSym [x] = x := by
  simp [charSym]

theorem digitBit_digitByte (b : Bool) : digitBit (digitByte b) = some b := by
  cases b <;> rfl

section
variable {o e : Nat} {x : Sym} {t : Rebuild} (rest : List Byte)

theorem parseText_digits {path p : Path} (hlen : path.length + p.length ≤ Config.maxcode) :
    parseText o (p.map digitByte ++ rest) (.digits e x path) t =
      parseText (o + p.length) rest (.digits e x (path ++ p)) t := by
  induction p generalizing o path with
  | nil => simp
  | cons b p ih =>
    rw [List.length_cons] at hlen
    have hstep : parseByte o (digitByte b) (.digits e x path) t = .ok (.digits e x (path ++ [b]), t) := by
      have hne : path.length ≠ Config.maxcode := by omega
      simp [parseByte, digitBit_digitByte, hne]
    rw [List.map_cons, List.cons_append, parseText_cons_ok _ hstep,
      ih (by rw [List.length_append, List.length_singleton]; omega), List.append_assoc, List.singleton_append,
      List.length_cons, Nat.add_assoc, Nat.add_comm 1]

theorem parseText_entryText {p : Path} (hlen : p.length ≤ Config.maxcode) :
    parseText o (entryText (x, p) ++ rest) (.char e []) t =
      parseText (o + (entryText (x, p)).length) rest (.digits e x p) t := by
  have hchar : parseByte o x (.char e []) t = .ok (.colon e x, t) := by
    simp [parseByte, charSym_singleton]
  have hcolon : parseByte (o + 1) colonByte (.colon e x) t = .ok (.digits e x [], t) := by
    simp [parseByte]
  have hnil : ([] : Path).length + p.length ≤ Config.maxcode := by simpa using hlen
  rw [entryText_length, entryText, charText_eq, List.singleton_append, List.cons_append, List.cons_append,
    parseText_cons_ok _ hchar, parseText_cons_ok _ hcolon, parseText_digits rest hnil, List.nil_append, ← Nat.add_assoc,
    ← Nat.add_assoc]
  rfl

end

theorem endOfDigits_of_ne_nil {n e : Nat} {x : Sym} {p : Path} (hne : p ≠ []) (t : Rebuild) :
    endOfDigits n e x p t = insertEntry x p e t := by
  simp [endOfDigits, hne]

/-- R151: a separator after a path ends the entry, and the next one starts behind it. -/
theorem parseText_sepByte {o e : Nat} {x : Sym} {p : Path} {t t' : Rebuild} (rest : List Byte) (hne : p ≠ [])
    (hok : insertEntry x p e t = .ok t') :
    parseText o (sepByte :: rest) (.digits e x p) t = parseText (o + 1) rest (.char (o + 1) []) t' := by
  have hdigit : digitBit sepByte = none := rfl
  exact parseText_cons_ok rest (by simp [parseByte, hdigit, endOfDigits_of_ne_nil hne, hok])

/-- R150: entries that do not conflict are taken one after another, each with its separator. -/
theorem parseText_tablePrefix {entries : List (Sym × Path)} (hI : Importable entries) :
    ∃ t, t.Holds entries ∧ ∀ rest, parseText 0 (tablePrefix entries ++ rest) (.char 0 []) Rebuild.start =
      parseText (tablePrefix entries).length rest (.char (tablePrefix entries).length []) t := by
  induction entries using List.reverseRecOn with
  | nil => exact ⟨_, holds_start, fun _ => rfl⟩
  | append_singleton entries a ih =>
    obtain ⟨x, p⟩ := a
    obtain ⟨t, ht, hparse⟩ := ih hI.left
    obtain ⟨t', hok, ht'⟩ := insertEntry_succeeds (tablePrefix entries).length ht hI
    obtain ⟨hpos, hlen⟩ := hI.pathLengths (x, p) (by simp)
    have htext : tablePrefix (entries ++ [(x, p)]) = tablePrefix entries ++ (entryText (x, p) ++ [sepByte]) := by
      simp [tablePrefix]
    refine ⟨t', ht', fun rest => ?_⟩
    rw [htext, List.append_assoc, List.append_assoc, hparse, parseText_entryText _ hlen, List.singleton_append,
      parseText_sepByte _ (List.ne_nil_of_length_pos hpos) hok, List.length_append, List.length_append,
      List.length_singleton, Nat.add_assoc]

theorem joinEntries_append_sepByte {entries : List (Sym × Path)} (hne : entries ≠ []) :
    joinEntries (entries.map entryText) ++ [sepByte] = tablePrefix entries := by
  induction entries with
  | nil => exact absurd rfl hne
  | cons a entries ih =>
    cases entries with
    | nil => simp [joinEntries, tablePrefix]
    | cons b entries =>
      have ih := ih (List.cons_ne_nil b entries)
      simp only [List.map_cons, joinEntries, tablePrefix, List.flatMap_cons, List.append_assoc, List.cons_append,
        List.nil_append] at ih ⊢
      rw [ih]

theorem joinEntries_snoc (entries : List (Sym × Path)) (a : Sym × Path) :
    joinEntries ((entries ++ [a]).map entryText) = tablePrefix entries ++ entryText a := by
  apply List.append_cancel_right (bs := [sepByte])
  rw [joinEntries_append_sepByte (by simp)]
  simp [tablePrefix]

/-- R82, R150: a table of entries that do not conflict is read to its end, a trailing separator or not. -/
theorem parseText_table {entries : List (Sym × Path)} (hI : Importable entries) (hne : entries ≠ []) (trailing : Bool) :
    ∃ t, t.Holds entries ∧
      parseText 0 (joinEntries (entries.map entryText) ++ if trailing then [sepByte] else []) (.char 0 [])
        Rebuild.start = .ok t := by
  cases trailing with
  | false =>
    obtain ⟨front, ⟨x, p⟩, rfl⟩ := (List.eq_nil_or_concat' entries).resolve_left hne
    obtain ⟨t, ht, hparse⟩ := parseText_tablePrefix hI.left
    obtain ⟨t', hok, ht'⟩ := insertEntry_succeeds (tablePrefix front).length ht hI
    obtain ⟨hpos, hlen⟩ := hI.pathLengths (x, p) (by simp)
    refine ⟨t', ht', ?_⟩
    rw [joinEntries_snoc, List.append_assoc, hparse, parseText_entryText _ hlen]
    exact (endOfDigits_of_ne_nil (List.ne_nil_of_length_pos hpos) t).trans hok
  | true =>
    obtain ⟨t, ht, hparse⟩ := parseText_tablePrefix hI
    have hpos : (tablePrefix entries).length ≠ 0 := by simp [← joinEntries_append_sepByte hne]
    refine ⟨t, ht, ?_⟩
    rw [if_pos rfl, joinEntries_append_sepByte hne, ← List.append_nil (tablePrefix entries), hparse]
    simp [parseText, parseEnd, hpos]

/-! ### The import of a table -/

theorem Rebuild.Holds.perm {t : Rebuild} {entries : List (Sym × Path)} (ht : t.Holds entries)
    (hnodup : (entries.map Prod.fst).Nodup) : (ctEntries t.ct).Perm entries := by
  refine (List.perm_ext_iff_of_nodup (ctEntries_fst_nodup t.ct).of_map hnodup.of_map).2 fun ⟨x, p⟩ => ?_
  rw [mem_ctEntries, ht.entry_iff]

theorem joinEntries_length_of_perm {texts texts' : List (List Byte)} (h : texts.Perm texts') :
    (joinEntries texts).length = (joinEntries texts').length := by
  rw [joinEntries_length, joinEntries_length, (h.map List.length).sum_eq, h.length_eq]

theorem importStaged_ok {s : State} {text : List Byte} {t : Rebuild} (hbb : s.eng.bb = bytesToBits text)
    (hok : importText s.eng.term text = .ok t) : importStaged s = .ok (s.setEng (s.eng.installImport t)) := by
  rw [importStaged, hbb, packBytes_bytesToBits, hok]

/-- R150, R154: the bytes of a table are consumed and staged, and the engine holds its tree. -/
theorem execTableImport_ok {s : State} {n : BitVec 32} {t : Rebuild} (herr : s.eng.err = false)
    (hfit : 8 * n.toNat ≤ Config.bbCapBits) (hn : n.toNat ≤ s.inp.units.length)
    (hok : importText s.eng.term (s.inp.units.take n.toNat) = .ok t) :
    exec (.tableImport n) s = .next { s with
      inp := { s.inp with units := s.inp.units.drop n.toNat }
      eng := { s.eng with
        inCount := BitVec.ofNat 64 n.toNat, outCount := 0#64, symCount := 0#64
        bb := bytesToBits (s.inp.units.take n.toNat), synTerm := false, treeValid := true
        nodes := t.nodes, root := 0, ct := t.ct
        tblBytes := BitVec.ofNat 64 (tableBytes t.ct (countLeaves t.nodes)) } } := by
  have hbody := (loadBuffer_enough importStaged
      ((s.setEng s.eng.zeroCounters).setEng { s.eng.zeroCounters.clearTree with synTerm := false }) hfit hn).trans
    (importStaged_ok rfl hok)
  rw [← BitVec.zero_add (BitVec.ofNat 64 n.toNat)]
  exact (runCommand_runs 0x22#8 (tableImportBody n) herr).trans (congrArg (finish 0x22#8) hbody)

/-- Settles O39: the parse takes the entries one after another, each walk adding the records of the prefixes not yet there;
the code table's entries are then the table's in another order. -/
theorem importAcceptsPrefixFreeTable : Obligations.ImportAcceptsPrefixFreeTable := by
  intro s n entries trailing rest table text herr hunits hn hfit hsyms hfree hlen hcap hterm
  obtain ⟨p₀, hp₀⟩ := hterm
  have hI : Importable entries := ⟨hsyms, hfree, hlen, hcap⟩
  have hne : entries ≠ [] := List.ne_nil_of_mem hp₀
  obtain ⟨t, ht, hparse⟩ := parseText_table hI hne trailing
  have hok : importText s.eng.term text = .ok t := by
    rw [importText, show parseText 0 text _ _ = _ from hparse]
    simp [(ht.entry_iff _ _).2 hp₀]
  have hperm := ht.perm hsyms
  have hleaves : countLeaves t.nodes = (ctEntries t.ct).length := ht.inv.coded.countLeaves
  have hbytes : tableBytes t.ct (countLeaves t.nodes) = table.length := by
    rw [hleaves, ← exportText_length, exportText, joinEntries_length_of_perm (hperm.map entryText)]
  have htake : s.inp.units.take n.toNat = text := by rw [hunits, hn, List.take_left]
  have hdrop : s.inp.units.drop n.toNat = rest := by rw [hunits, hn, List.drop_left]
  have henough : n.toNat ≤ s.inp.units.length := by
    rw [hunits, hn]
    exact (List.prefix_append text rest).length_le
  have hexec := execTableImport_ok herr (hn ▸ hfit) henough (htake ▸ hok)
  rw [htake, hdrop, hbytes, hn] at hexec
  refine ⟨t.nodes, t.ct, hexec, ht.entry_iff, hleaves.trans hperm.length_eq, ?_,
    fun q h => ?_, fun x p hp => ht.inv.coded.leads ((ht.entry_iff x p).2 hp)⟩
  · rw [ht.numbered.length_eq ht.inv.rebuilt, eraseDups_visited hne, prefixOrder, length_eraseDups]
  · rw [ht.numbered q h, eraseDups_visited hne]

end Sys2Proof.Machine
end

section
/-! The bit buffer: packing bit by bit, and what each of its commands does (40_bit_buffer.md R100 to R107). -/

namespace Sys2Proof

/-! ### The checks of a row at its OP (R74) -/

/-- A row without operands takes one descriptor, and finds a field that is not 0 in every other with its OP. -/
theorem decode_of_plain {d : Descriptor} {op : BitVec 8} {i : Instr} (hmem : (op, .plain i) ∈ commandForms)
    (hop : opField d = op) :
    decode d = if d = packFields op 0 0 0 then .ok i else .illegal .reservedField := by
  rw [decode_of_mem _ hmem hop]
  simp [OperandForm.decode, decodePlain, eq_packFields_iff, hop, and_assoc]

/-- R103: BB_APPEND's row refuses a VAL that is more than one bit. -/
theorem decode_bbAppend_of_two_le {d : Descriptor} (hop : opField d = 0x41#8) (hval : 2 ≤ (valField d).toNat) :
    decode d = .illegal .reservedField := by
  have hshift : valField d >>> 1 ≠ 0#64 := by
    rw [ne_eq, ushiftRight_eq_zero_iff]
    omega
  rw [decode_of_mem (0x41#8, .bit .bbAppend) (by simp [commandForms]) hop]
  simp [OperandForm.decode, decodeBit, hshift]

end Sys2Proof

namespace Sys2Proof.Machine

/-! ### Packing bit by bit (R12, R101) -/

/-- The last bit is the lowest of the number. -/
theorem bitsToNat_testBit (bits : List Bool) (n : Nat) : (bitsToNat bits).testBit n = bits.reverse.getD n false := by
  induction bits using List.reverseRecOn generalizing n with
  | nil => simp [bitsToNat]
  | append_singleton bits b ih =>
    rw [bitsToNat_append_singleton, List.reverse_append, List.reverse_singleton, List.singleton_append]
    cases n with
    | zero => cases b <;> simp
    | succ n =>
      have hhalf : (2 * bitsToNat bits + b.toNat) / 2 = bitsToNat bits := by
        have := b.toNat_lt
        omega
      rw [Nat.testBit_succ, hhalf, ih, List.getD_cons_succ]

/-- R12: of eight bits the first is bit 7 of their byte. -/
theorem ofNat_bitsToNat_getLsbD {bits : List Bool} {k : Nat} (hlen : bits.length = 8) (hk : k < 8) :
    (BitVec.ofNat 8 (bitsToNat bits)).getLsbD (7 - k) = bits.getD k false := by
  have hlt : 7 - k < 8 := by omega
  have hindex : 8 - 1 - (7 - k) = k := by omega
  rw [BitVec.getLsbD_ofNat, decide_eq_true hlt, Bool.true_and, bitsToNat_testBit, List.getD_reverse _ (hlen ▸ hlt), hlen,
    hindex]

/-- Bits of value 0 after the last change no bit: 0 is what is read past the end. -/
theorem getD_append_replicate (bits : List Bool) (n k : Nat) :
    (bits ++ List.replicate n false).getD k false = bits.getD k false := by
  by_cases hk : k < bits.length
  · rw [List.getD_append _ _ _ _ hk]
  · have hle := Nat.le_of_not_lt hk
    rw [List.getD_append_right _ _ _ _ hle, List.getD_eq_default _ _ hle, List.getD_eq_getElem?_getD,
      List.getElem?_getD_replicate_default_eq]

/-- R101: the bits that are missing of eight are 0. -/
theorem byteOfBits_getLsbD {bits : List Bool} {k : Nat} (hlen : bits.length ≤ 8) (hk : k < 8) :
    (byteOfBits bits).getLsbD (7 - k) = bits.getD k false := by
  rw [byteOfBits, ofNat_bitsToNat_getLsbD (by simp [hlen]) hk, getD_append_replicate]

/-- R101: the first byte is that of the first eight bits, or of all where there are fewer. -/
theorem packBytes_of_ne_nil : ∀ {bits : List Bool}, bits ≠ [] →
    packBytes bits = byteOfBits (bits.take 8) :: packBytes (bits.drop 8)
  | [], hne => absurd rfl hne
  | [_], _ | [_, _], _ | [_, _, _], _ | [_, _, _, _], _ | [_, _, _, _, _], _ | [_, _, _, _, _, _], _
  | [_, _, _, _, _, _, _], _ | _ :: _ :: _ :: _ :: _ :: _ :: _ :: _ :: _, _ => rfl

theorem packBytes_length (bits : List Bool) : (packBytes bits).length = (bits.length + 7) / 8 := by
  by_cases hne : bits = []
  · simp [hne, packBytes]
  · have hpos := List.length_pos_iff.2 hne
    rw [packBytes_of_ne_nil hne, List.length_cons, packBytes_length (bits.drop 8), List.length_drop]
    omega
termination_by bits.length
decreasing_by simp [hpos]

/-- R12, R101: bit `8 * j + k` is in byte `j`; past the end both sides are 0. -/
theorem packBytes_getLsbD (bits : List Bool) (j : Nat) {k : Nat} (hk : k < 8) :
    ((packBytes bits)[j]?.getD 0#8).getLsbD (7 - k) = bits.getD (8 * j + k) false := by
  by_cases hne : bits = []
  · simp [hne, packBytes]
  rw [packBytes_of_ne_nil hne]
  cases j with
  | zero => simpa [hk] using byteOfBits_getLsbD (List.length_take_le 8 bits) hk
  | succ j =>
    have hindex : 8 + (8 * j + k) = 8 * (j + 1) + k := by omega
    rw [List.getElem?_cons_succ, packBytes_getLsbD (bits.drop 8) j hk, List.getD_eq_getElem?_getD, List.getElem?_drop,
      hindex, List.getD_eq_getElem?_getD]

/-- Settles O28: the bytes are those of the sequence's parts of eight, the last part filled up with zeros. -/
theorem packedBitsMsbFirst : Obligations.PackedBitsMsbFirst :=
  fun bits => ⟨packBytes_length bits, fun j _ _ hk => packBytes_getLsbD bits j hk⟩

/-! ### The bodies of the commands -/

/-- With ERR = 0 a command ends as its body does from the zeroed counters (R228). -/
theorem exec_of_body (i : Instr) {s : State} {r : Result} (hreset : i ≠ .reset) (hack : i ≠ .errAck)
    (herr : s.eng.err = false) (hbody : commandBody i (s.setEng s.eng.zeroCounters) = r) :
    exec i s = finish (opcode i) r := by
  rw [exec_eq_runCommand hreset hack, runCommand_runs _ _ herr, hbody]

theorem infoNat_toNat {w : Nat} (n : BitVec w) : infoNat n.toNat = n.setWidth 64 := BitVec.ofNat_toNat ..

theorem infoBit_eq (b : Bool) : infoBit b = BitVec.ofNat 64 b.toNat := by
  cases b <;> rfl

/-- R34: at the start of a command the bytes read are all that IN_COUNT counts. -/
theorem readIn_zeroCounters (s : State) (k : Nat) : (s.setEng s.eng.zeroCounters).readIn k = { s with
    inp := { s.inp with units := s.inp.units.drop k }
    eng := { s.eng with inCount := BitVec.ofNat 64 k, outCount := 0#64, symCount := 0#64 } } := by
  simp [State.readIn, Engine.zeroCounters, State.setEng]

/-- R34: at the start of a command the bytes written are all that OUT_COUNT counts. -/
theorem writeOut_zeroCounters (s : State) (bytes : List Byte) : (s.setEng s.eng.zeroCounters).writeOut bytes = { s with
    out := s.out ++ bytes
    eng := { s.eng with inCount := 0#64, outCount := BitVec.ofNat 64 bytes.length, symCount := 0#64 } } := by
  simp [State.writeOut, Engine.zeroCounters, State.setEng]

theorem bbAppendBody_room {s : State} (b : Bool) (h : s.eng.bb.length < Config.bbCapBits) :
    bbAppendBody b s = .ok (s.setEng (s.eng.setBb (s.eng.bb ++ [b]))) := by
  rw [bbAppendBody, appendBit_room b h]

theorem bbAppendBody_full {s : State} (b : Bool) (h : Config.bbCapBits ≤ s.eng.bb.length) :
    bbAppendBody b s = .raised s .resource 1#64 (infoNat (Config.bbCapBits + 1)) := by
  rw [bbAppendBody, appendBit_full b h]

theorem bbGetBody_of_some {s : State} {i : BitVec 32} {b : Bool} (h : s.eng.bb[i.toNat]? = some b) :
    bbGetBody i s = .ok (s.setEng { s.eng with result := BitVec.ofNat 64 b.toNat }) := by
  rw [bbGetBody, countOf, h, ← infoBit_eq]

theorem bbGetBody_of_le {s : State} {i : BitVec 32} (h : s.eng.bb.length ≤ i.toNat) :
    bbGetBody i s = .raised s .range (i.setWidth 64) s.eng.bbLen := by
  rw [bbGetBody, countOf, List.getElem?_eq_none h, infoNat_toNat]

/-! ### The commands (R102 to R107) -/

/-- Settles O21: the body sets the buffer to no bits. -/
theorem bbClearCommand : Obligations.BbClearCommand :=
  ⟨fun _ herr => exec_of_body .bbClear nofun nofun herr rfl, fun _ => decode_of_plain (by simp [commandForms])⟩

/-- Settles O22: the append finds room below the capacity, and a full buffer at it. -/
theorem bbAppendCommand : Obligations.BbAppendCommand :=
  ⟨fun _ b herr hroom => exec_of_body (.bbAppend b) nofun nofun herr (bbAppendBody_room b hroom),
    fun _ b herr hfull => exec_of_body (.bbAppend b) nofun nofun herr (bbAppendBody_full b hfull.ge),
    fun _ => decode_bbAppend_of_two_le⟩

/-- Settles O23: a bit stands at index `i` exactly below BB_LEN, and the padding is no part of the buffer. -/
theorem bbGetCommand : Obligations.BbGetCommand :=
  ⟨fun _ i _ herr hbit => exec_of_body (.bbGet i) nofun nofun herr (bbGetBody_of_some hbit),
    fun _ i herr hlen => exec_of_body (.bbGet i) nofun nofun herr (bbGetBody_of_le hlen),
    fun i => decodeOfEncode (.bbGet i)⟩

/-- R105: the packed bytes go to OUT and are counted; the buffer stays. -/
theorem execBbEmit_eq {s : State} (herr : s.eng.err = false) :
    exec .bbEmit s = .next { s with
      out := s.out ++ packBytes s.eng.bb
      eng := { s.eng with
        inCount := 0#64, symCount := 0#64, outCount := BitVec.ofNat 64 ((s.eng.bb.length + 7) / 8) } } := by
  rw [← packBytes_length]
  exact exec_of_body .bbEmit nofun nofun herr (congrArg Result.ok (writeOut_zeroCounters s _))

/-- Settles O24: the state after BB_EMIT, and the one descriptor of its row. -/
theorem bbEmitCommand : Obligations.BbEmitCommand :=
  ⟨fun _ => execBbEmit_eq, fun _ => decode_of_plain (by simp [commandForms])⟩

/-- R106 where IN holds `n` bytes and they fit. -/
theorem execBbLoad_enough {s : State} {n : BitVec 32} (herr : s.eng.err = false) (hfit : 8 * n.toNat ≤ Config.bbCapBits)
    (hn : n.toNat ≤ s.inp.units.length) :
    exec (.bbLoad n) s = .next { s with
      inp := { s.inp with units := s.inp.units.drop n.toNat }
      eng := { s.eng with
        inCount := BitVec.ofNat 64 n.toNat, outCount := 0#64, symCount := 0#64
        bb := bytesToBits (s.inp.units.take n.toNat) } } := by
  have hbody := loadBuffer_enough .ok (s.setEng s.eng.zeroCounters) hfit hn
  rw [readIn_zeroCounters] at hbody
  exact exec_of_body (.bbLoad n) nofun nofun herr hbody

/-- R106 where IN ends before the `n` bytes: those there are stay in the buffer. -/
theorem execBbLoad_short {s : State} {n : BitVec 32} (herr : s.eng.err = false) (hfit : 8 * n.toNat ≤ Config.bbCapBits)
    (hn : s.inp.units.length < n.toNat) (heof : s.inp.tail = .eof) :
    exec (.bbLoad n) s = .next { s with
      inp := { s.inp with units := [] }
      eng := { s.eng with
        inCount := BitVec.ofNat 64 s.inp.units.length, outCount := 0#64, symCount := 0#64
        bb := bytesToBits s.inp.units
        err := true, errCode := .truncation, errOp := 0x44#8
        errInfo0 := n.setWidth 64, errInfo1 := BitVec.ofNat 64 s.inp.units.length } } := by
  have hbody := (loadBuffer_short .ok (s.setEng s.eng.zeroCounters) hfit hn).trans (atEndOfIn_eof _ heof)
  rw [readIn_zeroCounters, infoNat_toNat] at hbody
  rw [← List.drop_length (l := s.inp.units)]
  exact exec_of_body (.bbLoad n) nofun nofun herr hbody

/-- Settles O25: too many bytes for the buffer, bytes enough in IN, or IN at its end before them. -/
theorem bbLoadCommand : Obligations.BbLoadCommand :=
  ⟨fun _ _ => execBbLoad_enough,
    fun s n herr hlong =>
      exec_of_body (.bbLoad n) nofun nofun herr (loadBuffer_tooLong .ok (s.setEng s.eng.zeroCounters) hlong),
    fun _ _ => execBbLoad_short, fun n => decodeOfEncode (.bbLoad n)⟩

/-- Settles O27: BB_EMIT packs the bits that BB_LOAD unpacked from these bytes. -/
theorem loadThenEmitWritesBack : Obligations.LoadThenEmitWritesBack := by
  intro s t n herr hfit hn hload
  rw [execBbLoad_enough herr hfit hn] at hload
  cases hload
  exact ⟨_, execBbEmit_eq herr, congrArg (s.out ++ ·) (packBytes_bytesToBits _)⟩

end Sys2Proof.Machine
end

section
/-! The frequency table's commands, and BUILD's two endings with what each leaves in the engine (41_tree_build.md R121 to
R125, R131 to R133). -/

namespace Sys2Proof

/-- R122: a row that uses SYM and VAL refuses RSV or N that is not 0. -/
theorem decode_symVal_of_unused {d : Descriptor} {op : BitVec 8} {f : Sym → BitVec 64 → Instr}
    (hmem : (op, .symVal f) ∈ commandForms) (hop : opField d = op) (hunused : rsvField d ≠ 0#8 ∨ nField d ≠ 0#32) :
    decode d = .illegal .reservedField := by
  rw [decode_of_mem _ hmem hop, OperandForm.decode, decodeSymVal, if_neg]
  simpa [imp_iff_not_or] using hunused

/-- R122: with these 0, SYM is checked and both operands are read. -/
theorem decode_symVal_of_used {d : Descriptor} {op : BitVec 8} {f : Sym → BitVec 64 → Instr}
    (hmem : (op, .symVal f) ∈ commandForms) (hop : opField d = op) (hrsv : rsvField d = 0#8) (hn : nField d = 0#32) :
    decode d = if 256 ≤ (symField d).toNat then .illegal .symRange
      else .ok (f ((symField d).setWidth 8) (valField d)) := by
  rw [decode_of_mem _ hmem hop, OperandForm.decode, decodeSymVal, if_pos (by simp [hrsv, hn]), symOperand_eq]
  by_cases hrange : 256 ≤ (symField d).toNat
  · rw [if_pos hrange, symInRange_eq_false_iff.2 hrange]
    rfl
  · rw [if_neg hrange, if_pos (Bool.not_eq_false _ ▸ mt symInRange_eq_false_iff.1 hrange)]

end Sys2Proof

namespace Sys2Proof.Machine

/-! ### FREQ_CLEAR and FREQ_SET -/

/-- Settles O19: the body puts the empty table in FREQ's place. -/
theorem freqClearCommand : Obligations.FreqClearCommand :=
  fun _ herr => ⟨_, exec_of_body .freqClear nofun nofun herr rfl,
    fun x => ⟨by simp [Engine.freqV], by simp [Engine.freqAt]⟩, rfl⟩

/-- Settles O20: the body replaces one entry of FREQ, and the row's checks are those of SYM and VAL. -/
theorem freqSetCommand : Obligations.FreqSetCommand := by
  have hrow : (0x11#8, .symVal .freqSet) ∈ commandForms := by simp [commandForms]
  refine ⟨fun s x v herr => ⟨_, exec_of_body (.freqSet x v) nofun nofun herr rfl, by simp [Engine.freqV],
    by simp [Engine.freqAt], fun y hy => ?_, rfl⟩, fun _ => decode_symVal_of_unused hrow, fun _ => decode_symVal_of_used hrow⟩
  have hget := symGet_symPut_other s.eng.freq (some v) hy.symm
  exact ⟨congrArg Option.isSome hget, congrArg (Option.getD · 0) hget⟩

/-! ### The present symbols (R123 to R125) -/

/-- R125's check: some present symbol differs from TERM. -/
theorem presentCounts_any_ne {freq : FreqTable} {term : Sym} :
    (presentCounts freq).any (fun p => p.1 != term) = true ↔ ∃ x, x ≠ term ∧ (symGet freq x).isSome = true := by
  simp only [List.any_eq_true, presentCounts, List.mem_filterMap, Option.map_eq_some_iff, bne_iff_ne,
    Option.isSome_iff_exists]
  constructor
  · rintro ⟨_, ⟨x, -, c, hc, rfl⟩, hne⟩
    exact ⟨x, hne, c, hc⟩
  · rintro ⟨x, hne, c, hc⟩
    exact ⟨(x, c), ⟨x, mem_allSyms x, c, hc, rfl⟩, hne⟩

theorem mem_presentCounts {freq : FreqTable} {x : Sym} {c : BitVec Config.freqw} :
    (x, c) ∈ presentCounts freq ↔ symGet freq x = some c := by
  simp only [presentCounts, List.mem_filterMap, Option.map_eq_some_iff, Prod.mk.injEq]
  constructor
  · rintro ⟨_, -, _, hc, rfl, rfl⟩
    exact hc
  · exact fun hc => ⟨x, mem_allSyms x, c, hc, rfl, rfl⟩

theorem presentCounts_length (freq : FreqTable) :
    (presentCounts freq).length = allSyms.countP (fun y => (symGet freq y).isSome) := by
  simp [presentCounts, List.length_filterMap_eq_countP]

/-- R125: where no other symbol is present, `|P|` is 1 or 0 as TERM is present or not. -/
theorem presentCounts_length_of_term_only {freq : FreqTable} {term : Sym}
    (honly : ∀ x, x ≠ term → (symGet freq x).isSome = false) :
    (presentCounts freq).length = if (symGet freq term).isSome then 1 else 0 := by
  rw [presentCounts_length]
  split
  · rename_i hterm
    have hpresent : ∀ y ∈ allSyms, (symGet freq y).isSome = true ↔ (y == term) = true := by
      intro y _
      by_cases hy : y = term
      · simp [hy, hterm]
      · simp [hy, honly y hy]
    rw [List.countP_congr hpresent]
    exact List.count_eq_one_of_mem allSyms_nodup (mem_allSyms term)
  · rename_i hterm
    refine List.countP_eq_zero.2 (fun y _ => ?_)
    by_cases hy : y = term
    · exact hy ▸ hterm
    · simp [honly y hy]

/-! ### How BUILD ends -/

/-- The engine BUILD starts from (R123): the counters zeroed, the tree cleared and SYN_TERM 0. -/
def Engine.beforeBuild (e : Engine) : Engine := { e.zeroCounters.clearTree with synTerm := false }

/-- The engine BUILD leaves where it completes. -/
def Engine.built (e : Engine) : Engine :=
  e.beforeBuild.installTree (leafCounts e.freq e.term) (!(e.freqV e.term)) (terminatorCount e.freq e.term)

/-- R123: with a present symbol other than TERM. -/
theorem execBuild_completes {s : State} {x : Sym} (herr : s.eng.err = false) (hne : x ≠ s.eng.term)
    (hx : s.eng.freqV x = true) : exec .build s = .next (s.setEng s.eng.built) :=
  exec_of_body .build nofun nofun herr (if_pos (presentCounts_any_ne.2 ⟨x, hne, hx⟩))

/-- R125: without one. -/
theorem execBuild_raises {s : State} (herr : s.eng.err = false)
    (honly : ∀ x, x ≠ s.eng.term → s.eng.freqV x = false) :
    exec .build s = .next (s.setEng (s.eng.beforeBuild.enterError (opcode .build) .emptyAlphabet
      (if s.eng.freqV s.eng.term then 1#64 else 0#64) 0#64)) := by
  have hlen : infoNat (presentCounts s.eng.freq).length = if s.eng.freqV s.eng.term then 1#64 else 0#64 := by
    rw [presentCounts_length_of_term_only honly, Engine.freqV]
    split <;> rfl
  have hnone : ¬ (presentCounts s.eng.freq).any (fun p => p.1 != s.eng.term) = true := by
    rw [presentCounts_any_ne]
    rintro ⟨x, hne, hx⟩
    exact absurd hx (by simpa [Engine.freqV] using honly x hne)
  rw [← hlen]
  exact exec_of_body .build nofun nofun herr (if_neg hnone)

theorem data_or_terminator_only (e : Engine) :
    (∃ x, x ≠ e.term ∧ e.freqV x = true) ∨ ∀ x, x ≠ e.term → e.freqV x = false := by
  by_cases h : ∃ x, x ≠ e.term ∧ e.freqV x = true
  · exact .inl h
  · exact .inr fun x hne => Bool.eq_false_iff.2 fun hx => h ⟨x, hne, hx⟩

/-- A BUILD that raised nothing had a present symbol other than TERM, and left its tree. -/
theorem built_of_execBuild {s t : State} (herr : s.eng.err = false) (hexec : exec .build s = .next t)
    (hok : t.eng.err = false) : (∃ x, x ≠ s.eng.term ∧ s.eng.freqV x = true) ∧ t.eng = s.eng.built := by
  obtain ⟨x, hne, hx⟩ | honly := data_or_terminator_only s.eng
  · rw [execBuild_completes herr hne hx] at hexec
    cases hexec
    exact ⟨⟨x, hne, hx⟩, rfl⟩
  · rw [execBuild_raises herr honly] at hexec
    cases hexec
    cases hok

/-- Settles O29: R125's check fails, and the raise follows the clearing of the tree. -/
theorem buildEmptyAlphabet : Obligations.BuildEmptyAlphabet := fun _ => execBuild_raises

/-- Settles O34: whether BUILD completes, and the tree's state where it does, are functions of FREQ and TERM. -/
theorem buildDependsOnFrequenciesAndTerm : Obligations.BuildDependsOnFrequenciesAndTerm := by
  intro s s' t t' herr herr' hfreq hterm hexec hexec'
  obtain ⟨x, hne, hx⟩ | honly := data_or_terminator_only s.eng
  · rw [execBuild_completes herr hne hx] at hexec
    rw [execBuild_completes herr' (hterm ▸ hne) (by rwa [Engine.freqV, ← hfreq])] at hexec'
    cases hexec
    cases hexec'
    simp [Engine.built, Engine.installTree, Engine.beforeBuild, Engine.freqV, hfreq, hterm, herr, herr']
  · rw [execBuild_raises herr honly] at hexec
    rw [execBuild_raises herr' (by simpa [Engine.freqV, ← hfreq, ← hterm] using honly)] at hexec'
    cases hexec
    cases hexec'
    simp [Engine.beforeBuild]

end Sys2Proof.Machine
end

section
/-! BUILD's tree and its registers: the leaves' handles, R124's count of the terminator, and R26 with R132's bounds on the
engine BUILD leaves (41_tree_build.md R124, R128, R131, R132). -/

namespace Sys2Proof.Machine

/-! ### The terminator's count (R124) -/

theorem maxCount_snoc (present : List (Sym × BitVec Config.freqw)) (a : Sym × BitVec Config.freqw) :
    maxCount (present ++ [a]) = max (maxCount present) a.2.toNat := by
  simp [maxCount, List.foldl_append]

theorem le_maxCount {present : List (Sym × BitVec Config.freqw)} {a : Sym × BitVec Config.freqw} (ha : a ∈ present) :
    a.2.toNat ≤ maxCount present := by
  induction present using List.reverseRecOn with
  | nil => cases ha
  | append_singleton present b ih =>
    rw [maxCount_snoc]
    obtain ha | rfl : a ∈ present ∨ a = b := by simpa using ha
    · exact (ih ha).trans (Nat.le_max_left ..)
    · exact Nat.le_max_right ..

/-- R124: the largest count is that of a present symbol. -/
theorem exists_maxCount {present : List (Sym × BitVec Config.freqw)} (hne : present ≠ []) :
    ∃ a ∈ present, maxCount present = a.2.toNat := by
  induction present using List.reverseRecOn with
  | nil => exact absurd rfl hne
  | append_singleton present b ih =>
    rw [maxCount_snoc]
    by_cases hmax : maxCount present ≤ b.2.toNat
    · exact ⟨b, by simp, Nat.max_eq_right hmax⟩
    · have hnil : present ≠ [] := by
        rintro rfl
        exact hmax (Nat.zero_le _)
      obtain ⟨a, ha, hcount⟩ := ih hnil
      exact ⟨a, List.mem_append_left _ ha, (Nat.max_eq_left (by omega)).trans hcount⟩

theorem terminatorCount_of_present {e : Engine} (hterm : e.freqV e.term = true) :
    terminatorCount e.freq e.term = e.freqAt e.term := by
  obtain ⟨c, hc⟩ := Option.isSome_iff_exists.1 hterm
  simp [terminatorCount, Engine.freqAt, hc]

/-- R124: an absent terminator gets half the largest count. -/
theorem terminatorCount_of_absent {e : Engine} {x : Sym} (hterm : e.freqV e.term = false) (hx : e.freqV x = true) :
    ∃ y, e.freqV y = true ∧ (∀ z, e.freqV z = true → e.freqAt z ≤ e.freqAt y) ∧
      (terminatorCount e.freq e.term).toNat = (e.freqAt y).toNat / 2 := by
  have hget : ∀ {z}, e.freqV z = true → symGet e.freq z = some (e.freqAt z) := fun hz => by
    obtain ⟨c, hc⟩ := Option.isSome_iff_exists.1 hz
    simp [Engine.freqAt, hc]
  obtain ⟨⟨y, c⟩, hmem, hmax⟩ := exists_maxCount (List.ne_nil_of_mem (mem_presentCounts.2 (hget hx)))
  have hy := mem_presentCounts.1 hmem
  have hcount : e.freqAt y = c := by simp [Engine.freqAt, hy]
  refine ⟨y, Option.isSome_iff_exists.2 ⟨c, hy⟩, fun z hz => ?_, ?_⟩
  · rw [hcount, BitVec.le_def, ← hmax]
    exact le_maxCount (mem_presentCounts.2 (hget hz))
  · have habsent : symGet e.freq e.term = none := by simpa [Engine.freqV] using hterm
    rw [terminatorCount, habsent, hmax, hcount]
    exact Nat.mod_eq_of_lt (Nat.lt_of_le_of_lt (Nat.div_le_self ..) c.isLt)

/-! ### The built tree -/

/-- R123: every record that is no leaf has two children. -/
theorem Merged.internal_links {leaves : List Sym} {queue : List Handle} {nodes : List Node}
    (hM : Merged leaves queue nodes) {h : Handle} {l r : Option Handle} (hh : nodes[h]? = some (.internal l r)) :
    ∃ a b, l = some a ∧ r = some b := by
  obtain ⟨links, rfl⟩ := hM.records
  have hmem := List.mem_of_getElem? hh
  simp only [List.mem_append, List.mem_map, reduceCtorEq, and_false, exists_false, false_or, Node.internal.injEq] at hmem
  obtain ⟨⟨a, b⟩, -, rfl, rfl⟩ := hmem
  exact ⟨a, b, rfl, rfl⟩

section
variable {e : Engine} {x : Sym} (hne : x ≠ e.term) (hx : e.freqV x = true)
include hne hx

theorem built_merged : Merged ((leafCounts e.freq e.term).map Prod.fst) [e.built.root] e.built.nodes :=
  installTree_merged (e := e.beforeBuild) hne hx _ _

theorem built_usableTree : e.built.UsableTree := installTree_usableTree (e := e.beforeBuild) hne hx _ _

theorem built_twoLeaves : e.built.TwoLeaves := installTree_twoLeaves (e := e.beforeBuild) hne hx _ _

/-- R132 (a): a built tree is full. -/
theorem built_fullTree : e.built.FullTree := by
  intro h l r hh
  obtain ⟨a, b, rfl, rfl⟩ := (built_merged hne hx).internal_links hh
  exact ⟨rfl, rfl⟩

/-- R26 (c): the symbols of the tree are the present ones and TERM. -/
theorem built_ctV_iff {y : Sym} : e.built.ctV y = true ↔ e.freqV y = true ∨ y = e.term := by
  rw [(built_usableTree hne hx).codesAreLeaves]
  simp only [(built_merged hne hx).leaf_iff]
  rw [← List.mem_iff_getElem?]
  exact mem_leafCounts_fst

/-- R132 (d): a path has fewer bits than the tree has leaves. -/
theorem built_ctLen_le {y : Sym} (hy : e.built.ctV y = true) : e.built.ctLen y ≤ countLeaves e.built.nodes - 1 := by
  have hM := built_merged hne hx
  have hU := built_usableTree hne hx
  obtain ⟨h, hh⟩ := (hU.codesAreLeaves y).1 hy
  have hpos : 1 ≤ (e.built.ctPath y).length := (hU.pathLengths y hy).1
  have hlen := hM.path_length (List.ne_nil_of_length_pos hpos) (hU.pathEndsAtLeaf h y hh)
  have hroot := hM.root_eq
  have hsize := hM.length_eq
  rw [hM.countLeaves, Engine.ctLen]
  omega

end

/-- Settles O31: R26 and the bounds hold of the merged tree over the leaves of BUILD. -/
theorem builtTreeIsFullAndPrefixFree : Obligations.BuiltTreeIsFullAndPrefixFree := by
  intro s t herr hexec hok
  obtain ⟨⟨x, hne, hx⟩, ht⟩ := built_of_execBuild herr hexec hok
  rw [ht]
  exact ⟨built_usableTree hne hx, built_fullTree hne hx, built_twoLeaves hne hx, fun _ => built_ctV_iff hne hx,
    fun _ => built_ctLen_le hne hx⟩

/-- Settles O30: the merged tree's records are BUILD's leaves and then its links; RESULT is R124's count. -/
theorem buildCompletes : Obligations.BuildCompletes := by
  intro s x herr hne hx
  have hM := built_merged hne hx
  obtain ⟨links, hnodes⟩ := hM.records
  have hsize := hM.length_eq
  have hroot : s.eng.built.root = s.eng.built.nodes.length - 1 := Nat.eq_sub_of_add_eq hM.root_eq
  refine ⟨s.eng.built.nodes, s.eng.built.nodeF, s.eng.built.ct, terminatorCount s.eng.freq s.eng.term,
    links.map (fun a => .internal (some a.1) (some a.2)), ?_, ?_, ?_, ?_, terminatorCount_of_present,
    fun hterm => terminatorCount_of_absent hterm hx⟩
  · rw [execBuild_completes herr hne hx, ← hroot, ← (built_usableTree hne hx).tblBytes]
    simp [Engine.built, Engine.installTree, Engine.beforeBuild, State.setEng, Engine.zeroCounters, Engine.clearTree]
  · rw [hnodes, leafCounts_fst]
    rfl
  · intro r hr
    obtain ⟨a, -, rfl⟩ := List.mem_map.1 hr
    exact ⟨a.1, a.2, rfl⟩
  · rw [hM.countLeaves]
    omega

end Sys2Proof.Machine
end

section
/-! Frequencies in BUILD's arena: each merge takes the two least queued nodes, and no 72-bit sum wraps
(41_tree_build.md R123, R126, R127, R129). -/

namespace Sys2Proof.Machine

/-! ### The extraction (R127) -/

/-- R127's order as one key: the frequency, then the handle. -/
def QItem.key (a : QItem) : ℕ ×ₗ ℕ := toLex (a.f.toNat, a.h)

theorem QItem.key_le_iff {a b : QItem} : a.key ≤ b.key ↔ a.f < b.f ∨ (a.f = b.f ∧ a.h ≤ b.h) := by
  simp [QItem.key, Prod.Lex.toLex_le_toLex, BitVec.lt_def, BitVec.toNat_inj]

theorem qBefore_iff {a b : QItem} : qBefore a b = true ↔ a.key < b.key := by
  simp [qBefore, QItem.key, Prod.Lex.toLex_lt_toLex, BitVec.lt_def, BitVec.toNat_inj]

theorem extractLeast_of_ne_nil {q : List QItem} (hq : q ≠ []) : ∃ m rest, extractLeast q = some (m, rest) := by
  cases h : extractLeast q with
  | none => exact absurd (extractLeast_eq_none h) hq
  | some a => exact ⟨a.1, a.2, rfl⟩

/-- R127: no lesser element is left in the queue. -/
theorem extractLeast_key_le {q rest : List QItem} {m : QItem} (h : extractLeast q = some (m, rest)) :
    ∀ x ∈ rest, m.key ≤ x.key := by
  induction q generalizing m rest with
  | nil => cases h
  | cons y q ih =>
    unfold extractLeast at h
    split at h
    · cases h
      simp
    · rename_i m' rest' hsome
      have hleast := ih hsome
      split at h
      · rename_i hbefore
        cases h
        have hy := le_of_lt (qBefore_iff.1 hbefore)
        exact List.forall_mem_cons.2 ⟨hy, fun x hx => hy.trans (hleast x hx)⟩
      · rename_i hbefore
        cases h
        rw [qBefore_iff, not_lt] at hbefore
        exact List.forall_mem_cons.2 ⟨hbefore, hleast⟩

theorem extractLeast_twice_perm {q q1 q2 : List QItem} {a b : QItem} (ha : extractLeast q = some (a, q1))
    (hb : extractLeast q1 = some (b, q2)) : q.Perm (a :: b :: q2) :=
  (extractLeast_perm ha).trans ((extractLeast_perm hb).cons a)

/-! ### The two least queued nodes -/

theorem Queued.congr {nodes nodes' : List Node} {h c : Handle} (hsame : ∀ g < h, nodes'[g]? = nodes[g]?) :
    Queued nodes' h c ↔ Queued nodes h c := by
  refine and_congr_right fun _ => forall_congr' fun g => forall_congr' fun l => forall_congr' fun r => ?_
  exact forall_congr' fun hg => by rw [hsame g hg]

/-- The queue holds the handles that are no child of an earlier record. -/
theorem Merged.queued_iff {leaves : List Sym} {queue : List Handle} {nodes : List Node}
    (hM : Merged leaves queue nodes) {c : Handle} : Queued nodes nodes.length c ↔ c ∈ queue := by
  rw [hM.queued]
  refine and_congr_right fun _ => ⟨fun horphan g b hg => ?_, fun horphan g l r _ hg => ?_⟩
  · obtain ⟨l, r, hrecord⟩ := internal_of_nextNode hg
    obtain ⟨hl, hr⟩ := horphan g l r (lt_length_of_nextNode hg) hrecord
    rw [nextNode_internal hrecord] at hg
    cases b
    · exact hl hg
    · exact hr hg
  · refine not_or.1 fun hchild => ?_
    obtain ⟨b, hb⟩ := exists_nextNode_of_link hg hchild
    exact horphan g b hb

/-- R127's order on handles, by these frequencies. -/
def Precedes (F : Handle → Nat) (a c : Handle) : Prop := F a < F c ∨ (F a = F c ∧ a < c)

/-- R123's round at record `h`: `a` is the least and `b` the second least of the queued nodes, and the frequency of `h`
is their sum. -/
structure LeastTwo (nodes : List Node) (F : Handle → Nat) (h a b : Handle) : Prop where
  differ : a ≠ b
  leftQueued : Queued nodes h a
  rightQueued : Queued nodes h b
  sum : F h = F a + F b
  leftLeast : ∀ c, Queued nodes h c → c ≠ a → Precedes F a c
  rightLeast : ∀ c, Queued nodes h c → c ≠ a → c ≠ b → Precedes F b c

/-- It depends on the records before `h` and the frequencies up to `h` alone. -/
theorem LeastTwo.congr {nodes nodes' : List Node} {F F' : Handle → Nat} {h a b : Handle} (hL : LeastTwo nodes F h a b)
    (hsame : ∀ g < h, nodes'[g]? = nodes[g]?) (hF : ∀ g ≤ h, F' g = F g) : LeastTwo nodes' F' h a b := by
  have hqueued : ∀ {c}, Queued nodes' h c ↔ Queued nodes h c := Queued.congr hsame
  have hcount : ∀ {c}, Queued nodes h c → F' c = F c := fun hc => hF _ (Nat.le_of_lt hc.1)
  have ha := hcount hL.leftQueued
  have hb := hcount hL.rightQueued
  refine ⟨hL.differ, hqueued.2 hL.leftQueued, hqueued.2 hL.rightQueued, ?_, fun c hc hca => ?_, fun c hc hca hcb => ?_⟩
  · rw [hF h le_rfl, ha, hb, hL.sum]
  · rw [hqueued] at hc
    rw [Precedes, ha, hcount hc]
    exact hL.leftLeast c hc hca
  · rw [hqueued] at hc
    rw [Precedes, hb, hcount hc]
    exact hL.rightLeast c hc hca hcb

/-! ### The arena's frequencies while BUILD runs (R126) -/

/-- F of a record, as a number. -/
def Arena.weight (arena : Arena) (h : Handle) : Nat := ((arena.fs[h]?).getD 0).toNat

theorem Arena.weight_of_getElem? {arena : Arena} {h : Handle} {f : BitVec Config.ifreqw} (hf : arena.fs[h]? = some f) :
    arena.weight h = f.toNat := by
  rw [Arena.weight, hf]
  rfl

/-- The sum of the leaves' counts. -/
def totalCount (leaves : List (Sym × BitVec Config.freqw)) : Nat := (leaves.map (fun a => a.2.toNat)).sum

/-- The sum of the queued frequencies. -/
def queueWeight (q : List QItem) : Nat := (q.map (fun a => a.f.toNat)).sum

/-- R126: BUILD's arena between two rounds. A leaf's F is its count, the queue holds its nodes' F, whose exact sum stays
that of the leaves' counts, and each record made by a round came of the two least nodes. -/
structure Weighed (leaves : List (Sym × BitVec Config.freqw)) (q : List QItem) (arena : Arena) : Prop where
  merged : Merged (leaves.map Prod.fst) (q.map QItem.h) arena.nodes
  leafF : ∀ {h : Handle} {a : Sym × BitVec Config.freqw}, leaves[h]? = some a → arena.fs[h]? = some (a.2.setWidth Config.ifreqw)
  sameLength : arena.fs.length = arena.nodes.length
  queuedF : ∀ x ∈ q, arena.fs[x.h]? = some x.f
  total : queueWeight q = totalCount leaves
  leastTwo : ∀ {h a b : Handle}, arena.nodes[h]? = some (.internal (some a) (some b)) →
    LeastTwo arena.nodes arena.weight h a b

theorem setWidth_ifreqw_toNat (c : BitVec Config.freqw) : (c.setWidth Config.ifreqw).toNat = c.toNat :=
  BitVec.toNat_setWidth_of_le (by decide)

theorem leafQueue_getElem? (leaves : List (Sym × BitVec Config.freqw)) (h : Nat) :
    (leafQueue leaves)[h]? = leaves[h]?.map (fun a => { f := a.2.setWidth Config.ifreqw, h := h }) := by
  simp [leafQueue, Function.comp_def]

/-- R128, R126: at the start. -/
theorem weighed_leaves (leaves : List (Sym × BitVec Config.freqw)) :
    Weighed leaves (leafQueue leaves) (leafArena leaves) where
  merged := by
    have hstart := merged_leaves (leaves.map Prod.fst)
    rwa [List.length_map, ← leafQueue_handles leaves, List.map_map] at hstart
  leafF := fun hh => by simp [leafArena, hh]
  sameLength := by simp [leafArena]
  queuedF := by
    intro x hx
    obtain ⟨h, hh⟩ := List.mem_iff_getElem?.1 hx
    rw [leafQueue_getElem?, Option.map_eq_some_iff] at hh
    obtain ⟨a, ha, rfl⟩ := hh
    simp [leafArena, ha]
  total := by
    have hfst : (leafQueue leaves).map (fun a => a.f.toNat) = leaves.map (fun a => a.2.toNat) := by
      refine List.ext_getElem? fun h => ?_
      rw [List.getElem?_map, leafQueue_getElem?, List.getElem?_map, Option.map_map]
      exact congrArg (leaves[h]?.map ·) (funext fun a => setWidth_ifreqw_toNat a.2)
    rw [queueWeight, hfst, totalCount]
  leastTwo := by
    intro h a b hh
    simp [leafArena] at hh

/-- The arena after a round has merged `a` and `b`. -/
def Arena.join (arena : Arena) (a b : QItem) : Arena :=
  { nodes := arena.nodes ++ [.internal (some a.h) (some b.h)], fs := arena.fs ++ [a.f + b.f] }

theorem Arena.join_nodes (arena : Arena) {a b : QItem} {g : Nat} (hg : g < arena.nodes.length) :
    (arena.join a b).nodes[g]? = arena.nodes[g]? :=
  List.getElem?_append_left hg

/-- R123: the node a round queues. -/
def Arena.joined (arena : Arena) (a b : QItem) : QItem := { f := a.f + b.f, h := arena.nodes.length }

/-- R123's loop as an induction: what each round keeps holds at the end, of the one node left. -/
theorem mergeQueue_induction {P : List QItem → Arena → Prop}
    (round : ∀ q q1 q2 a b arena, P q arena → extractLeast q = some (a, q1) → extractLeast q1 = some (b, q2) →
      P (arena.joined a b :: q2) (arena.join a b))
    {fuel : Nat} {q : List QItem} {arena : Arena} (hP : P q arena) (hq : q ≠ []) (hfuel : q.length ≤ fuel) :
    ∃ x : QItem, x.h = (mergeQueue fuel q arena).2 ∧ P [x] (mergeQueue fuel q arena).1 := by
  induction fuel generalizing q arena with
  | zero => exact absurd (List.eq_nil_of_length_eq_zero (Nat.le_zero.1 hfuel)) hq
  | succ fuel ih =>
    obtain ⟨a, q1, ha⟩ := extractLeast_of_ne_nil hq
    have hlen := (extractLeast_perm ha).length_eq
    simp only [mergeQueue, ha]
    cases hb : extractLeast q1 with
    | none =>
      have hsingle := extractLeast_perm ha
      rw [extractLeast_eq_none hb, List.perm_singleton] at hsingle
      exact ⟨a, rfl, hsingle ▸ hP⟩
    | some b =>
      have hlen1 := (extractLeast_perm hb).length_eq
      refine ih (round q q1 b.2 a b.1 arena hP ha hb) (List.cons_ne_nil _ _) ?_
      simp only [List.length_cons] at hlen hlen1 ⊢
      omega

section
variable {leaves : List (Sym × BitVec Config.freqw)} {q q1 q2 : List QItem} {arena : Arena} {a b : QItem}

variable (hW : Weighed leaves q arena) (hbound : totalCount leaves < 2 ^ Config.ifreqw)
  (ha : extractLeast q = some (a, q1)) (hb : extractLeast q1 = some (b, q2))
include hW

theorem Weighed.lt_length {x : QItem} (hx : x ∈ q) : x.h < arena.nodes.length :=
  (hW.merged.queued.1 (List.mem_map_of_mem hx)).1

/-- A round leaves the F of earlier records. -/
theorem Weighed.join_fs {h : Nat} (hh : h < arena.nodes.length) : (arena.join a b).fs[h]? = arena.fs[h]? :=
  List.getElem?_append_left (by rwa [hW.sameLength])

theorem Weighed.join_weight {h : Nat} (hh : h < arena.nodes.length) :
    (arena.join a b).weight h = arena.weight h := by
  rw [Arena.weight, hW.join_fs hh, Arena.weight]

theorem Weighed.join_weight_queued {x : QItem} (hx : x ∈ q) : (arena.join a b).weight x.h = x.f.toNat :=
  (hW.join_weight (hW.lt_length hx)).trans (Arena.weight_of_getElem? (hW.queuedF x hx))

theorem Weighed.join_fs_last : (arena.join a b).fs[arena.nodes.length]? = some (a.f + b.f) := by
  rw [← hW.sameLength]
  exact List.getElem?_concat_length

include ha hb

include hbound

/-- R126: the sum of two queued frequencies does not wrap. -/
theorem Weighed.add_toNat : (a.f + b.f).toNat = a.f.toNat + b.f.toNat := by
  have htotal := hW.total
  rw [queueWeight, ((extractLeast_twice_perm ha hb).map _).sum_eq, List.map_cons, List.map_cons, List.sum_cons,
    List.sum_cons] at htotal
  exact BitVec.toNat_add_of_lt (by omega)

/-- R123, R129: a round's record has the two least queued nodes as children. -/
theorem Weighed.join_leastTwo :
    LeastTwo (arena.join a b).nodes (arena.join a b).weight arena.nodes.length a.h b.h := by
  have hperm := extractLeast_twice_perm ha hb
  have hqueued : ∀ {c}, Queued (arena.join a b).nodes arena.nodes.length c ↔ ∃ x ∈ q, x.h = c := by
    intro c
    rw [Queued.congr fun g hg => arena.join_nodes hg, hW.merged.queued_iff, List.mem_map]
  have hmem : ∀ {x}, x ∈ q ↔ x = a ∨ x ∈ q1 := by simp [(extractLeast_perm ha).mem_iff]
  have hmem1 : ∀ {x}, x ∈ q1 ↔ x = b ∨ x ∈ q2 := by simp [(extractLeast_perm hb).mem_iff]
  have haq : a ∈ q := hmem.2 (.inl rfl)
  have hbq : b ∈ q := hmem.2 (.inr (hmem1.2 (.inl rfl)))
  have hprecedes : ∀ {x y}, x ∈ q → y ∈ q → x.key ≤ y.key → y.h ≠ x.h →
      Precedes (arena.join a b).weight x.h y.h := by
    intro x y hx hy hxy hne
    have hkey : x.key ≠ y.key := fun heq => hne (congrArg (fun k => (ofLex k).2) heq).symm
    rw [Precedes, hW.join_weight_queued hx, hW.join_weight_queued hy]
    exact Prod.Lex.toLex_lt_toLex.1 (lt_of_le_of_ne hxy hkey)
  refine ⟨?_, hqueued.2 ⟨a, haq, rfl⟩, hqueued.2 ⟨b, hbq, rfl⟩, ?_, fun c hc hca => ?_, fun c hc hca hcb => ?_⟩
  · have hnodup := (hperm.map QItem.h).nodup_iff.1 hW.merged.queueNodup
    rw [List.map_cons, List.map_cons, List.nodup_cons] at hnodup
    exact fun hab => hnodup.1 (by simp [hab])
  · rw [hW.join_weight_queued haq, hW.join_weight_queued hbq, Arena.weight_of_getElem? hW.join_fs_last]
    exact hW.add_toNat hbound ha hb
  · obtain ⟨x, hx, rfl⟩ := hqueued.1 hc
    obtain rfl | hx1 := hmem.1 hx
    · exact absurd rfl hca
    · exact hprecedes haq hx (extractLeast_key_le ha x hx1) hca
  · obtain ⟨x, hx, rfl⟩ := hqueued.1 hc
    obtain rfl | hx1 := hmem.1 hx
    · exact absurd rfl hca
    · obtain rfl | hx2 := hmem1.1 hx1
      · exact absurd rfl hcb
      · exact hprecedes hbq hx (extractLeast_key_le hb x hx2) hcb

/-- Each round keeps the arena's frequencies. -/
theorem Weighed.round : Weighed leaves (arena.joined a b :: q2) (arena.join a b) where
  merged := hW.merged.round (by simpa using (extractLeast_twice_perm ha hb).map QItem.h)
  leafF := fun {h c} hc => by
    have hleaf := hW.leafF hc
    rw [hW.join_fs (hW.sameLength ▸ (List.getElem?_eq_some_iff.1 hleaf).1), hleaf]
  sameLength := by simp [Arena.join, hW.sameLength]
  queuedF := by
    refine List.forall_mem_cons.2 ⟨hW.join_fs_last, fun x hx => ?_⟩
    have hxq : x ∈ q := (extractLeast_twice_perm ha hb).mem_iff.2 (by simp [hx])
    rw [hW.join_fs (hW.lt_length hxq), hW.queuedF x hxq]
  total := by
    rw [← hW.total, queueWeight, queueWeight, ((extractLeast_twice_perm ha hb).map _).sum_eq]
    simp only [List.map_cons, List.sum_cons, Arena.joined, hW.add_toNat hbound ha hb, Nat.add_assoc]
  leastTwo := fun {h l r} hh => by
    obtain hold | ⟨hnew, rfl⟩ := getElem?_snoc_eq_some_iff.1 hh
    · have hlt := (List.getElem?_eq_some_iff.1 hold).1
      exact (hW.leastTwo hold).congr (fun g hg => arena.join_nodes (hg.trans hlt))
        (fun g hg => hW.join_weight (Nat.lt_of_le_of_lt hg hlt))
    · cases hnew
      exact hW.join_leastTwo hbound ha hb

end

/-- R123's tree with its frequencies: the root's is the one left. -/
theorem huffmanTree_weighed {leaves : List (Sym × BitVec Config.freqw)} (hne : leaves ≠ [])
    (hbound : totalCount leaves < 2 ^ Config.ifreqw) :
    ∃ x : QItem, x.h = (huffmanTree leaves).2 ∧ Weighed leaves [x] (huffmanTree leaves).1 :=
  mergeQueue_induction (fun _ _ _ _ _ _ hW ha hb => hW.round hbound ha hb) (weighed_leaves leaves)
    (by simpa [leafQueue] using hne) (by simp [leafQueue])

/-! ### BUILD's counts -/

theorem mem_leafCounts {freq : FreqTable} {term x : Sym} {c : BitVec Config.freqw} :
    (x, c) ∈ leafCounts freq term ↔
      if x = term then c = terminatorCount freq term else symGet freq x = some c := by
  simp only [leafCounts, List.mem_filterMap]
  constructor
  · rintro ⟨y, -, hy⟩
    split at hy
    · cases hy
      simp [*]
    · obtain ⟨_, hget, hpair⟩ := Option.map_eq_some_iff.1 hy
      cases hpair
      simp [*]
  · intro hc
    refine ⟨x, mem_allSyms x, ?_⟩
    split at hc
    · simp [*]
    · simp [*]

/-- A leaf's count (R124, R126). -/
theorem count_of_mem_leafCounts {e : Engine} {x : Sym} {c : BitVec Config.freqw}
    (hx : (x, c) ∈ leafCounts e.freq e.term) :
    c = if x = e.term then terminatorCount e.freq e.term else e.freqAt x := by
  rw [mem_leafCounts] at hx
  by_cases hterm : x = e.term
  · rwa [if_pos hterm] at hx ⊢
  · rw [if_neg hterm] at hx ⊢
    simp [Engine.freqAt, hx]

theorem sum_map_filterMap {α β : Type} (f : α → Option β) (v : β → Nat) (l : List α) :
    ((l.filterMap f).map v).sum = (l.map (fun y => ((f y).map v).getD 0)).sum := by
  induction l with
  | nil => rfl
  | cons y l ih => cases hy : f y <;> simp [hy, ih]

/-- R126: the leaves' counts are the data symbols' and the terminator's. -/
theorem totalCount_leafCounts (e : Engine) : totalCount (leafCounts e.freq e.term) =
    ((allSyms.filter (fun x => x ≠ e.term)).map (fun x => (e.freqAt x).toNat)).sum +
      (terminatorCount e.freq e.term).toNat := by
  have hperm : allSyms.Perm (e.term :: allSyms.filter (fun x => x ≠ e.term)) := by
    have herase := List.perm_cons_erase (mem_allSyms e.term)
    rw [allSyms_nodup.erase_eq_filter] at herase
    simpa [bne, beq_eq_decide] using herase
  rw [totalCount, leafCounts, sum_map_filterMap, (hperm.map _).sum_eq, List.map_cons, List.sum_cons, Nat.add_comm]
  refine congrArg₂ (· + ·) (congrArg List.sum (List.map_congr_left fun y hy => ?_)) (by simp)
  have hne : y ≠ e.term := (by simpa using hy : y ∈ allSyms ∧ _).2
  cases hget : symGet e.freq y <;> simp [hne, hget, Engine.freqAt]

/-- R126: 256 counts of 64 bits have a sum of 72 bits. -/
theorem totalCount_leafCounts_lt (freq : FreqTable) (term : Sym) :
    totalCount (leafCounts freq term) < 2 ^ Config.ifreqw := by
  have hsum := List.sum_le_card_nsmul ((leafCounts freq term).map fun a => a.2.toNat) (2 ^ Config.freqw - 1) (by
    intro n hn
    obtain ⟨a, -, rfl⟩ := List.mem_map.1 hn
    exact Nat.le_sub_one_of_lt a.2.isLt)
  have hlen := leafCounts_length_le freq term
  rw [List.length_map] at hlen
  rw [List.length_map, smul_eq_mul] at hsum
  have hmul := Nat.mul_le_mul_right (2 ^ Config.freqw - 1) hlen
  exact Nat.lt_of_le_of_lt (hsum.trans hmul) (by decide)

/-! ### The built tree's frequencies -/

/-- F as BUILD leaves it: the arena's entries stand first (R23). -/
theorem writeF_getElem? (old new : List (BitVec Config.ifreqw)) {h : Nat} (hh : h < new.length) :
    (writeF old new)[h]? = new[h]? :=
  List.getElem?_append_left hh

/-- BUILD leaves the merged tree of its leaves, with the frequencies of the arena. -/
theorem built_weighed (e : Engine) :
    ∃ (y : QItem) (arena : Arena), Weighed (leafCounts e.freq e.term) [y] arena ∧ e.built.nodes = arena.nodes ∧
      e.built.root = y.h ∧ e.built.nodeF[y.h]? = some y.f := by
  have hterm : (e.term, terminatorCount e.freq e.term) ∈ leafCounts e.freq e.term := mem_leafCounts.2 (by simp)
  obtain ⟨y, hy, hW⟩ := huffmanTree_weighed (List.ne_nil_of_mem hterm) (totalCount_leafCounts_lt e.freq e.term)
  have hroot := hW.queuedF y (List.mem_singleton_self y)
  exact ⟨y, _, hW, rfl, hy.symm, (writeF_getElem? _ _ (List.getElem?_eq_some_iff.1 hroot).1).trans hroot⟩

theorem built_result (e : Engine) : e.built.result = terminatorCount e.freq e.term := BitVec.setWidth_eq _

/-- Settles O32: the last node queued has the sum that the rounds keep. -/
theorem rootFrequencyIsExactSum : Obligations.RootFrequencyIsExactSum := by
  intro s t herr hexec hok
  obtain ⟨-, ht⟩ := built_of_execBuild herr hexec hok
  obtain ⟨y, arena, hW, -, hroot, hF⟩ := built_weighed s.eng
  have htotal : y.f.toNat = totalCount (leafCounts s.eng.freq s.eng.term) := hW.total
  rw [ht, built_result, hroot, hF, ← totalCount_leafCounts, ← htotal]
  rfl

/-- Settles O33: the extraction by the recursion of `extractLeast`; the built tree by the frequencies each round keeps. -/
theorem leastNodeExtracted : Obligations.LeastNodeExtracted := by
  refine ⟨fun q hq => ?_, fun s t herr hexec hok => ?_⟩
  · obtain ⟨m, rest, h⟩ := extractLeast_of_ne_nil hq
    exact ⟨m, rest, h, extractLeast_perm h, fun x hx => QItem.key_le_iff.1 (extractLeast_key_le h x hx)⟩
  · obtain ⟨-, ht⟩ := built_of_execBuild herr hexec hok
    obtain ⟨y, arena, hW, hnodes, -, -⟩ := built_weighed s.eng
    rw [ht, hnodes, built_result]
    refine ⟨arena.weight, fun h z hz => ?_, fun h l r hh => ?_⟩
    · rw [hW.merged.leaf_iff, List.getElem?_map, Option.map_eq_some_iff] at hz
      obtain ⟨⟨z, c⟩, hc, rfl⟩ := hz
      rw [Arena.weight_of_getElem? (hW.leafF hc), setWidth_ifreqw_toNat,
        count_of_mem_leafCounts (List.mem_of_getElem? hc)]
      split <;> rfl
    · obtain ⟨a, b, rfl, rfl⟩ := hW.merged.internal_links hh
      obtain ⟨hdiffer, ha, hb, hsum, hleast, hsecond⟩ := hW.leastTwo hh
      exact ⟨a, b, rfl, rfl, hdiffer, ha, hb, hsum, hleast, hsecond⟩

end Sys2Proof.Machine
end

section
/-! The code table read out: TABLE_EXPORT, CT_READ, and the longest text of a built table (42_code_table.md R140 to
R144). -/

namespace Sys2Proof.Machine

/-! ### TABLE_EXPORT and CT_READ -/

/-- With ERR = 0 and a tree, a command that needs one ends as its body does from the zeroed counters (R227, R228). -/
theorem exec_of_needTree (i : Instr) {s : State} {body : State → Result} {r : Result} (hreset : i ≠ .reset)
    (hack : i ≠ .errAck) (herr : s.eng.err = false) (htree : s.eng.treeValid = true)
    (hneed : commandBody i = needTree (opcode i) body) (hbody : body (s.setEng s.eng.zeroCounters) = r) :
    exec i s = finish (opcode i) r := by
  refine exec_of_body i hreset hack herr ?_
  rw [hneed, needTree_valid _ _ (by exact htree), hbody]

/-- Settles O35: the body writes the text, and R33 gives TBL_BYTES as its length. -/
theorem tableExportCommand : Obligations.TableExportCommand :=
  fun s herr htree => ⟨exec_of_needTree .tableExport nofun nofun herr htree rfl
    (congrArg Result.ok (writeOut_zeroCounters s (exportText s.eng.ct))), fun hU => hU.tblBytes.symm⟩

theorem ctReadBody_of_some {s : State} {x : Sym} {p : Path} (h : symGet s.eng.ct x = some p) :
    ctReadBody x s = .ok (s.setEng { s.eng.setBb p with result := infoNat p.length }) := by
  rw [ctReadBody, h]

theorem ctReadBody_of_none {s : State} {x : Sym} (h : symGet s.eng.ct x = none) :
    ctReadBody x s = .raised s .alphabet (infoSym x) 0#64 := by
  rw [ctReadBody, h]

/-- Settles O38: with a tree the body finds the symbol's path, or none. -/
theorem ctReadCommand : Obligations.CtReadCommand :=
  ⟨fun _ x _ herr htree hx => exec_of_needTree (.ctRead x) nofun nofun herr htree rfl (ctReadBody_of_some hx),
    fun _ x herr htree hx => exec_of_needTree (.ctRead x) nofun nofun herr htree rfl (ctReadBody_of_none hx)⟩

/-! ### The paths of a built tree, summed (R143) -/

/-- The bits of the entries' paths, counted together. -/
def pathBits (entries : List (Sym × Path)) : Nat := (entries.map (fun a => a.2.length)).sum

@[simp] theorem pathBits_append (entries entries' : List (Sym × Path)) :
    pathBits (entries ++ entries') = pathBits entries + pathBits entries' := by
  simp [pathBits]

theorem tableBytes_eq (ct : CodeTable) (leaves : Nat) :
    tableBytes ct leaves = 2 * (ctEntries ct).length + pathBits (ctEntries ct) + (leaves - 1) := by
  simp [tableBytes, pathBits, List.sum_map_add, Nat.mul_comm]

theorem ctEntries_length_le (ct : CodeTable) : (ctEntries ct).length ≤ Config.nsym :=
  (List.length_filterMap_le _ allSyms).trans (by rw [allSyms, List.length_map, List.length_range])

/-- A path read from the table is one that leads to its symbol's leaf, and there is no other. -/
theorem Coded.symGet_iff {nodes : List Node} {root : Handle} {ct : CodeTable} (hC : Coded nodes root ct)
    (hR : RootedTree nodes root) {x : Sym} {p : Path} : symGet ct x = some p ↔ LeadsTo nodes root p x := by
  refine ⟨hC.leads, ?_⟩
  rintro ⟨h, hw, hh⟩
  obtain ⟨q, hq, hwq⟩ := hC.covers hh
  rw [hq, hR.path_unique hwq hw]

/-- The entries below the two children of a record differ in the bit of the descent. -/
theorem derivePaths_nodup (fuel : Nat) (nodes : List Node) (h : Handle) (path : Path) :
    (derivePaths fuel nodes h path).Nodup := by
  induction fuel generalizing h path with
  | zero => simp [derivePaths]
  | succ fuel ih =>
    unfold derivePaths
    split
    · exact List.nodup_nil
    · exact List.nodup_singleton _
    · rename_i l r hh
      refine List.nodup_append'.2 ⟨?_, ?_, ?_⟩
      · cases l with
        | none => exact List.nodup_nil
        | some c => exact ih c _
      · cases r with
        | none => exact List.nodup_nil
        | some c => exact ih c _
      · rintro ⟨x, p⟩ hl hr
        cases l with
        | none => cases hl
        | some a =>
          cases r with
          | none => cases hr
          | some b =>
            obtain ⟨q, hq, -⟩ := mem_derivePaths.1 hl
            obtain ⟨q', hq', -⟩ := mem_derivePaths.1 hr
            simp [hq] at hq'

/-- R132, R143: a record of a full tree with `k` leaves below it has at most `1 + 2 + … + (k - 1) + (k - 1)` bits on the
paths to them: joining `j` and `k` leaves adds `j + k` bits, and `(j - 1) * (k - 1)` is no less than 0. -/
theorem Merged.derivePaths_bound {leaves : List Sym} {queue : List Handle} {nodes : List Node}
    (hM : Merged leaves queue nodes) {fuel h : Nat} {path : Path} (hh : h < nodes.length) (hfuel : h < fuel) :
    1 ≤ (derivePaths fuel nodes h path).length ∧
      2 * pathBits (derivePaths fuel nodes h path) + 2 ≤
        (derivePaths fuel nodes h path).length * ((derivePaths fuel nodes h path).length + 1 + 2 * path.length) := by
  induction fuel generalizing h path with
  | zero => exact absurd hfuel (Nat.not_lt_zero h)
  | succ fuel ih =>
    cases hrec : nodes[h]? with
    | none => exact absurd (List.getElem?_eq_none_iff.1 hrec) (Nat.not_le_of_lt hh)
    | some a =>
    cases a with
    | leaf x =>
      simp only [derivePaths, hrec, pathBits, List.map_singleton, List.sum_singleton, List.length_singleton]
      omega
    | internal l r =>
      obtain ⟨a, b, rfl, rfl⟩ := hM.internal_links hrec
      have ha := hM.below (nextNode_internal hrec false)
      have hb := hM.below (nextNode_internal hrec true)
      obtain ⟨hposa, hsuma⟩ := ih (h := a) (path := path ++ [false]) (ha.trans hh) (by omega)
      obtain ⟨hposb, hsumb⟩ := ih (h := b) (path := path ++ [true]) (hb.trans hh) (by omega)
      simp only [derivePaths, hrec, pathBits_append, List.length_append, List.length_singleton] at hsuma hsumb ⊢
      generalize (derivePaths fuel nodes a _).length = j, (derivePaths fuel nodes b _).length = k at *
      refine ⟨by omega, ?_⟩
      obtain ⟨j, rfl⟩ := Nat.exists_eq_add_of_le hposa
      obtain ⟨k, rfl⟩ := Nat.exists_eq_add_of_le hposb
      nlinarith [Nat.zero_le (j * k)]

section
variable {e : Engine} {x : Sym} (hne : x ≠ e.term) (hx : e.freqV x = true)
include hne hx

/-- R130: the code table of a built tree lists what the path derivation found. -/
theorem built_ctEntries_perm :
    (ctEntries e.built.ct).Perm (derivePaths e.built.nodes.length e.built.nodes e.built.root []) := by
  have hM := built_merged hne hx
  have hC := hM.coded (leafCounts_nodup e.freq e.term)
  refine (List.perm_ext_iff_of_nodup (ctEntries_fst_nodup _).of_map (derivePaths_nodup ..)).2 fun ⟨y, p⟩ => ?_
  rw [mem_ctEntries, mem_derivePaths, show symGet e.built.ct y = some p ↔ _ from hC.symGet_iff hM.rooted]
  constructor
  · intro hp
    refine ⟨p, rfl, ?_, hp⟩
    obtain ⟨c, hw, -⟩ := hp
    have hroot := hM.root_eq
    have hlen := hM.length_eq
    by_cases hnil : p = []
    · rw [hnil, List.length_nil]
      omega
    · have := hM.path_length hnil hw
      omega
  · rintro ⟨q, rfl, -, hq⟩
    exact hq

/-- R143: the paths of `n` entries have at most `(n - 1) * (n + 2) / 2` bits. -/
theorem built_pathBits_le : 2 * pathBits (ctEntries e.built.ct) + 2 ≤
    (ctEntries e.built.ct).length * ((ctEntries e.built.ct).length + 1) := by
  have hperm := built_ctEntries_perm hne hx
  have hroot := (built_merged hne hx).root_eq
  have hbound := ((built_merged hne hx).derivePaths_bound (path := []) (Nat.lt_of_succ_le hroot.le)
    (Nat.lt_of_succ_le hroot.le)).2
  rw [pathBits, (hperm.map _).sum_eq, hperm.length_eq]
  exact hbound

end

/-- Settles O37: at most 256 entries, whose paths are together longest where each record has a leaf for a child. -/
theorem builtExportLengthBound : Obligations.BuiltExportLengthBound := by
  intro s t herr hexec hok
  obtain ⟨⟨x, hne, hx⟩, ht⟩ := built_of_execBuild herr hexec hok
  have hbits := built_pathBits_le hne hx
  have hcount : (ctEntries s.eng.built.ct).length ≤ 256 := ctEntries_length_le _
  have hsquare := Nat.mul_le_mul hcount (Nat.add_le_add_right hcount 1)
  rw [ht, exportText_length, tableBytes_eq]
  omega

end Sys2Proof.Machine
end

section
/-! TABLE_IMPORT that fails: staging's errors, the conflicts of an entry with those before it, and where the parse ends
(42_code_table.md R150 to R156, R159). -/

namespace Sys2Proof.Machine

/-! ### The command (R154, R159) -/

/-- The state TABLE_IMPORT stages its bytes from (R150, R154): the counters zeroed, the tree cleared and SYN_TERM 0. -/
def State.beforeImport (s : State) : State :=
  (s.setEng s.eng.zeroCounters).setEng { s.eng.zeroCounters.clearTree with synTerm := false }

/-- R34: the bytes staged are all that IN_COUNT counts. -/
theorem beforeImport_readIn (s : State) (k : Nat) : s.beforeImport.readIn k = { s with
    inp := { s.inp with units := s.inp.units.drop k }
    eng := { s.eng.clearTree with
      synTerm := false, inCount := BitVec.ofNat 64 k, outCount := 0#64, symCount := 0#64 } } := by
  simp [State.beforeImport, State.readIn, Engine.zeroCounters, Engine.clearTree, State.setEng]

theorem execTableImport_of_loadBuffer {s : State} {n : BitVec 32} {r : Result} (herr : s.eng.err = false)
    (hload : loadBuffer n.toNat importStaged s.beforeImport = r) :
    exec (.tableImport n) s = finish 0x22#8 r :=
  exec_of_body (.tableImport n) nofun nofun herr hload

/-- Settles O41: too many bytes for the buffer, or IN at its end before them. -/
theorem importStagingErrors : Obligations.ImportStagingErrors := by
  refine ⟨fun s n herr hlong => execTableImport_of_loadBuffer herr (loadBuffer_tooLong _ s.beforeImport hlong),
    fun s n herr hfit hn heof => ?_⟩
  have hload := (loadBuffer_short importStaged s.beforeImport hfit hn).trans (atEndOfIn_eof _ heof)
  rw [show s.beforeImport.inp = s.inp from rfl, beforeImport_readIn, infoNat_toNat, List.drop_length] at hload
  exact execTableImport_of_loadBuffer herr hload

/-- What an import's stop raises (R152): the error code and the two info words. -/
def ImportStop.error : ImportStop → ErrCode × Reg × Reg
  | .corrupt offset reason => (.corruptTable, infoNat offset, infoNat (corruptCode reason))
  | .arenaFull => (.resource, 3#64, infoNat (Config.nodeCap + 1))

theorem importStaged_error {s : State} {text : List Byte} {stop : ImportStop} (hbb : s.eng.bb = bytesToBits text)
    (hstop : importText s.eng.term text = .error stop) :
    importStaged s = .raised s stop.error.1 stop.error.2.1 stop.error.2.2 := by
  rw [importStaged, hbb, packBytes_bytesToBits, hstop]
  cases stop <;> rfl

/-- Settles O42: the n bytes are staged, and the parse of them ends in the stop that is raised. -/
theorem failedImportLeavesNoTree : Obligations.FailedImportLeavesNoTree := by
  refine ⟨fun s n stop herr hfit hn hstop => ?_, rfl, rfl, rfl, rfl, rfl, rfl, rfl, rfl⟩
  have hload := loadBuffer_enough importStaged s.beforeImport hfit hn
  rw [show s.beforeImport.inp = s.inp from rfl, beforeImport_readIn] at hload
  refine ⟨stop.error.1, stop.error.2.1, stop.error.2.2, ?_, ?_,
    execTableImport_of_loadBuffer herr (hload.trans (importStaged_error rfl hstop))⟩
  · rintro o r rfl
    exact ⟨rfl, rfl, rfl⟩
  · rintro rfl
    exact ⟨rfl, rfl, rfl⟩

/-! ### Walks that R156 stops -/

theorem insertWalk_append (e : Nat) (nodes : List Node) (h : Handle) (p q : Path) :
    insertWalk e nodes h (p ++ q) = (insertWalk e nodes h p).bind (fun a => insertWalk e a.1 a.2 q) := by
  induction p generalizing nodes h with
  | nil => rfl
  | cons b p ih =>
    simp only [List.cons_append, insertWalk]
    split
    · rfl
    · rfl
    · split
      · exact ih ..
      · split
        · rfl
        · exact ih ..

/-- R156: along links that are there the walk adds no record. -/
theorem insertWalk_of_walkPath {e : Nat} {nodes : List Node} {h c : Handle} {p : Path}
    (hp : walkPath nodes h p = some c) : insertWalk e nodes h p = .ok (nodes, c) := by
  induction p generalizing h with
  | nil =>
    cases hp
    rfl
  | cons b p ih =>
    obtain ⟨d, hd, hp⟩ := walkPath_cons.1 hp
    obtain ⟨l, r, hh⟩ := internal_of_nextNode hd
    rw [nextNode_internal hh] at hd
    simp only [insertWalk, hh, hd]
    exact ih hp

theorem insertWalk_leaf {e : Nat} {nodes : List Node} {h : Handle} {x : Sym} (hh : nodes[h]? = some (.leaf x))
    {p : Path} (hne : p ≠ []) : insertWalk e nodes h p = .error (.corrupt e .throughLeaf) := by
  obtain ⟨b, p, rfl⟩ := List.exists_cons_of_ne_nil hne
  simp only [insertWalk, hh]

theorem descents_append (q p r : Path) : descents q (p ++ r) = descents q p ++ descents (q ++ p) r := by
  induction p generalizing q with
  | nil => simp [descents]
  | cons b p ih => simp [descents, ih]

/-- A path that is no entry's ends at an INTERNAL record. -/
theorem Rebuilt.internal_of_free {nodes : List Node} {ct : CodeTable} {h : Handle} {p : Path} (hR : Rebuilt nodes)
    (hC : Coded nodes 0 ct) (hw : walkPath nodes 0 p = some h) (hfree : ∀ x, symGet ct x ≠ some p) :
    ∃ l r, nodes[h]? = some (.internal l r) := by
  cases hh : nodes[h]? with
  | none => exact absurd (List.getElem?_eq_none_iff.1 hh) (Nat.not_le_of_lt (hR.lt_length_of_walkPath hw))
  | some a =>
    cases a with
    | leaf x =>
      obtain ⟨q, hq, hwq⟩ := hC.covers hh
      exact absurd (hR.path_unique hwq hw ▸ hq) (hfree x)
    | internal l r => exact ⟨l, r, rfl⟩

section
variable {t : Rebuild} {entries : List (Sym × Path)} (ht : t.Holds entries)
include ht

theorem Rebuild.Holds.leadsTo {a : Sym × Path} (ha : a ∈ entries) : LeadsTo t.nodes 0 a.2 a.1 :=
  ht.inv.coded.leads ((ht.entry_iff a.1 a.2).2 ha)

/-- R156: with no leaf on the way, the walk stops at the first record for which there is no room. -/
theorem insertWalk_arenaFull {e : Nat} {p : Path} (hfree : ∀ a ∈ entries, ¬ a.2 <+: p)
    (hfull : Config.nodeCap < (visited entries ++ [[]] ++ descents [] p).eraseDups.length) :
    insertWalk e t.nodes 0 p = .error .arenaFull := by
  have hstart := ht.numbered.snoc_of_mem (q := []) List.mem_cons_self
  induction p using List.reverseRecOn with
  | nil =>
    rw [descents, List.append_nil, ← hstart.length_eq ht.inv.rebuilt] at hfull
    exact absurd ht.inv.rebuilt.bounded (Nat.not_le_of_lt hfull)
  | append_singleton p b ih =>
    have hfree' : ∀ a ∈ entries, ¬ a.2 <+: p := fun a ha hp => hfree a ha (hp.trans (List.prefix_append p [b]))
    rw [insertWalk_append]
    by_cases hroom : (visited entries ++ [[]] ++ descents [] p).eraseDups.length ≤ Config.nodeCap
    · obtain ⟨nodes, h, hok, hN⟩ := insertWalk_succeeds (e := e) (q := []) (p := p) ht.inv.rebuilt ht.inv.coded
        hstart rfl (fun x r hr => hfree' (x, r) ((ht.entry_iff x r).1 hr)) hroom
      obtain ⟨hR, hext, hw⟩ := insertWalk_ok hok ht.inv.rebuilt
      rw [descents_append, ← List.append_assoc, descents, descents, List.nil_append] at hfull
      have hnew : p ++ [b] ∉ visited entries ++ [[]] ++ descents [] p := by
        intro hmem
        rw [eraseDups_snoc_of_mem hmem] at hfull
        omega
      rw [eraseDups_snoc_of_not_mem hnew, List.length_append, List.length_singleton, ← hN.length_eq hR] at hfull
      have hcap : nodes.length = Config.nodeCap := Nat.le_antisymm hR.bounded (Nat.le_of_lt_succ hfull)
      obtain ⟨l, r, hh⟩ := hR.internal_of_free (ht.inv.coded.extends hext) hw
        fun x hx => hfree' (x, p) ((ht.entry_iff x p).1 hx) List.prefix_rfl
      have hnone : childOf l r b = none := by
        by_contra hc
        obtain ⟨c, hc⟩ := Option.ne_none_iff_exists'.1 hc
        exact hnew (hN.mem_iff.2 ⟨c, walkPath_snoc.2 ⟨h, hw, (nextNode_internal hh b).trans hc⟩⟩)
      rw [hok]
      show insertWalk e nodes h [b] = _
      simp [insertWalk, hh, hnone, hcap]
    · rw [ih hfree' (Nat.lt_of_not_le hroom)]
      rfl

/-! ### Entries that R156 turns away -/

theorem insertEntry_duplicateSymbol {x : Sym} (p : Path) (e : Nat) (hx : x ∈ entries.map Prod.fst) :
    insertEntry x p e t = .error (.corrupt e .duplicateSymbol) := by
  obtain ⟨⟨x, q⟩, hq, rfl⟩ := List.mem_map.1 hx
  simp [insertEntry, (ht.entry_iff x q).2 hq]

variable {x : Sym} (hx : x ∉ entries.map Prod.fst)
include hx

theorem Rebuild.Holds.symGet_eq_none : symGet t.ct x = none :=
  Option.eq_none_iff_forall_ne_some.2 fun p hp => hx (List.mem_map_of_mem ((ht.entry_iff x p).1 hp))

theorem insertEntry_of_walk_error {p : Path} {e : Nat} {stop : ImportStop}
    (hwalk : insertWalk e t.nodes 0 p = .error stop) : insertEntry x p e t = .error stop := by
  simp [insertEntry, ht.symGet_eq_none hx, hwalk]

theorem insertEntry_throughLeaf {a : Sym × Path} {p : Path} (e : Nat) (ha : a ∈ entries) (hpre : a.2 <+: p)
    (hne : a.2 ≠ p) : insertEntry x p e t = .error (.corrupt e .throughLeaf) := by
  refine insertEntry_of_walk_error ht hx ?_
  obtain ⟨c, hw, hc⟩ := ht.leadsTo ha
  obtain ⟨q, rfl⟩ := hpre
  have hq : q ≠ [] := by
    rintro rfl
    exact hne (List.append_nil _).symm
  rw [insertWalk_append, insertWalk_of_walkPath hw]
  exact insertWalk_leaf hc hq

theorem insertEntry_duplicatePath {a : Sym × Path} (e : Nat) (ha : a ∈ entries) :
    insertEntry x a.2 e t = .error (.corrupt e .duplicatePath) := by
  obtain ⟨c, hw, hc⟩ := ht.leadsTo ha
  simp [insertEntry, ht.symGet_eq_none hx, insertWalk_of_walkPath hw, hc]

theorem insertEntry_prefixOfEarlier {a : Sym × Path} {p : Path} (e : Nat) (ha : a ∈ entries) (hpre : p <+: a.2)
    (hne : a.2 ≠ p) : insertEntry x p e t = .error (.corrupt e .prefixOfEarlier) := by
  obtain ⟨c, hw, hc⟩ := ht.leadsTo ha
  obtain ⟨q, hq⟩ := hpre
  have hnil : q ≠ [] := by
    rintro rfl
    exact hne (hq.symm.trans (List.append_nil p))
  obtain ⟨b, q, rfl⟩ := List.exists_cons_of_ne_nil hnil
  rw [← hq, walkPath_append, Option.bind_eq_some_iff] at hw
  obtain ⟨h, hw, hrest⟩ := hw
  obtain ⟨d, hd, -⟩ := walkPath_cons.1 hrest
  obtain ⟨l, r, hh⟩ := internal_of_nextNode hd
  rw [nextNode_internal hh] at hd
  have hchild : (l.isSome || r.isSome) = true := by
    cases b <;> simp_all [childOf]
  simp [insertEntry, ht.symGet_eq_none hx, insertWalk_of_walkPath hw, hh, hchild]

theorem insertEntry_arenaFull {p : Path} (e : Nat) (hfree : ∀ a ∈ entries, ¬ a.2 <+: p)
    (hfull : 511 < ((entries ++ [(x, p)]).flatMap (fun a => a.2.inits)).dedup.length) :
    insertEntry x p e t = .error .arenaFull := by
  refine insertEntry_of_walk_error ht hx (insertWalk_arenaFull ht hfree ?_)
  rw [← visited_snoc entries x, eraseDups_visited (by simp), prefixOrder, length_eraseDups]
  exact hfull

end

/-! ### Where the parse ends (R150, R151) -/

theorem digitBit_of_ne {y : Byte} (h0 : y ≠ 0x30#8) (h1 : y ≠ 0x31#8) : digitBit y = none := by
  simp [digitBit, h0, h1]

/-- R151: the text ends here, or goes on with a byte that is no digit. -/
def DigitsEnd (more : List Byte) : Prop :=
  more = [] ∨ ∃ (y : Byte) (later : List Byte), more = y :: later ∧ y ≠ 0x30#8 ∧ y ≠ 0x31#8

section
variable {o e : Nat} {x : Sym} {p : Path} {t : Rebuild} {more : List Byte}

/-- R151: what the end of the digits raises comes before anything the next byte could raise. -/
theorem parseText_digits_error {stop : ImportStop} (hend : DigitsEnd more)
    (hstop : endOfDigits o e x p t = .error stop) : parseText o more (.digits e x p) t = .error stop := by
  obtain rfl | ⟨y, later, rfl, h0, h1⟩ := hend
  · exact hstop
  · exact parseText_cons_error later (by simp [parseByte, digitBit_of_ne h0 h1, hstop])

theorem parseText_entry_error {stop : ImportStop} (hpos : 1 ≤ p.length) (hlen : p.length ≤ 255) (hend : DigitsEnd more)
    (hstop : insertEntry x p e t = .error stop) :
    parseText o (entryText (x, p) ++ more) (.char e []) t = .error stop := by
  rw [parseText_entryText _ hlen]
  exact parseText_digits_error hend ((endOfDigits_of_ne_nil (List.ne_nil_of_length_pos hpos) t).trans hstop)

theorem parseText_char : parseText o (x :: more) (.char e []) t = parseText (o + 1) more (.colon e x) t :=
  parseText_cons_ok more (by simp [parseByte, charSym_singleton])

theorem parseText_colon : parseText o (0x3A#8 :: more) (.colon e x) t = parseText (o + 1) more (.digits e x []) t :=
  parseText_cons_ok more (by simp [parseByte, colonByte])

theorem parseText_notColon {y : Byte} (hy : y ≠ 0x3A#8) :
    parseText o (y :: more) (.colon e x) t = .error (.corrupt o .badText) :=
  parseText_cons_error more (by simp [parseByte, colonByte, hy])

/-- R151: a path that is taken, and then a byte that is neither DIGIT nor SEP. -/
theorem parseText_notSep {t' : Rebuild} {y : Byte} (hne : p ≠ []) (hok : insertEntry x p e t = .ok t')
    (h0 : y ≠ 0x30#8) (h1 : y ≠ 0x31#8) (hsep : y ≠ 0x3B#8) :
    parseText o (y :: more) (.digits e x p) t = .error (.corrupt o .badText) :=
  parseText_cons_error more
    (by simp [parseByte, digitBit_of_ne h0 h1, endOfDigits_of_ne_nil hne, hok, sepByte, hsep])

/-- R81: CHAR and COLON are a byte each. -/
theorem entryText_length_eq (a : Sym × Path) : (entryText a).length = 2 + a.2.length := entryText_length a

/-- R25, R155: the digit after 255 bits. -/
theorem parseText_pathTooLong (hlen : p.length = 256) :
    parseText o (entryText (x, p) ++ more) (.char e []) t = .error (.corrupt (o + 257) .pathTooLong) := by
  obtain ⟨q, b, rfl⟩ := (List.eq_nil_or_concat' p).resolve_left (List.ne_nil_of_length_pos (by omega))
  rw [List.length_append, List.length_singleton] at hlen
  have hq : q.length = Config.maxcode := Nat.succ.inj hlen
  have htext : entryText (x, q ++ [b]) ++ more = entryText (x, q) ++ digitByte b :: more := by simp [entryText]
  rw [htext, parseText_entryText _ hq.le, entryText_length_eq, show (x, q).2.length = 255 from hq]
  exact parseText_cons_error more (by simp [parseByte, digitBit_digitByte, hq])

end

/-! ### The import of such a text -/

theorem importText_tablePrefix {entries : List (Sym × Path)} (hI : Importable entries) :
    ∃ t, t.Holds entries ∧ ∀ {term : Sym} {rest : List Byte} {stop : ImportStop},
      parseText (tablePrefix entries).length rest (.char (tablePrefix entries).length []) t = .error stop →
      importText term (tablePrefix entries ++ rest) = .error stop := by
  obtain ⟨t, ht, hparse⟩ := parseText_tablePrefix hI
  exact ⟨t, ht, fun {_ rest _} hstop => importText_stop ((hparse rest).trans hstop)⟩

/-- R153: a table without TERM is found wanting at its end. -/
theorem importText_table_noTerminator {entries : List (Sym × Path)} {term : Sym} (hI : Importable entries)
    (hne : entries ≠ []) (hterm : term ∉ entries.map Prod.fst) (trailing : Bool) :
    importText term (joinEntries (entries.map entryText) ++ if trailing then [sepByte] else []) =
      .error (.corrupt (joinEntries (entries.map entryText) ++ if trailing then [sepByte] else []).length
        .noTerminator) := by
  obtain ⟨t, ht, hparse⟩ := parseText_table hI hne trailing
  exact importText_noTerminator hparse (ht.symGet_eq_none hterm)

/-- Settles O40: after the accepted entries, the entry's conflict or the byte out of place is the first error met. -/
theorem importRejectsConflict : Obligations.ImportRejectsConflict := by
  refine ⟨fun term entries x p more hI hpos hlen hend => ?_, fun term entries x more hI => ?_,
    fun term entries hI hne hterm => ?_⟩
  · obtain ⟨t, ht, himport⟩ := importText_tablePrefix hI
    have hreject : ∀ {stop}, insertEntry x p (tablePrefix entries).length t = .error stop →
        importText term (tablePrefix entries ++ entryText (x, p) ++ more) = .error stop := fun hstop => by
      rw [List.append_assoc]
      exact himport (parseText_entry_error hpos hlen hend hstop)
    refine ⟨fun hx => hreject (insertEntry_duplicateSymbol ht p _ hx), ?_, ?_, ?_, ?_⟩
    · rintro hx ⟨a, ha, hpre, hne⟩
      exact hreject (insertEntry_throughLeaf ht hx _ ha hpre hne)
    · rintro hx ⟨a, ha, rfl⟩
      exact hreject (insertEntry_duplicatePath ht hx _ ha)
    · rintro hx ⟨a, ha, hpre, hne⟩
      exact hreject (insertEntry_prefixOfEarlier ht hx _ ha hpre hne)
    · exact fun hx hfree hfull => hreject (insertEntry_arenaFull ht hx _ (fun a ha => (hfree a ha).1) hfull)
  · obtain ⟨t, ht, himport⟩ := importText_tablePrefix hI
    have hempty : ∀ {rest}, DigitsEnd rest → importText term (tablePrefix entries ++ x :: 0x3A#8 :: rest) =
        .error (.corrupt ((tablePrefix entries).length + 2) .emptyPath) := fun hend =>
      himport (parseText_char.trans (parseText_colon.trans (parseText_digits_error hend rfl)))
    refine ⟨rfl, himport parseText_char, fun y hy => himport (parseText_char.trans (parseText_notColon hy)),
      fun p y hI' h0 h1 hsep => himport ?_, hempty (.inl rfl), fun y h0 h1 => hempty (.inr ⟨y, more, rfl, h0, h1⟩),
      fun p hp => himport (parseText_pathTooLong hp)⟩
    obtain ⟨t', hok, -⟩ := insertEntry_succeeds (tablePrefix entries).length ht hI'
    obtain ⟨hpos, hlen⟩ := hI'.pathLengths (x, p) (by simp)
    rw [parseText_entryText _ hlen, entryText_length_eq, ← Nat.add_assoc]
    exact parseText_notSep (List.ne_nil_of_length_pos hpos) hok h0 h1 hsep
  · have hend := importText_table_noTerminator hI hne hterm
    exact ⟨by simpa using hend false, by simpa [joinEntries_append_sepByte hne] using hend true⟩

end Sys2Proof.Machine
end

section
/-! TABLE_IMPORT of a table of one entry, and of the text that TABLE_EXPORT writes (42_code_table.md R157, R160). -/

namespace Sys2Proof.Machine

/-- Settles O43: TERM's entry is a table without conflicts, and its tree has as many leaves as the table has entries. -/
theorem oneEntryImportLeavesOneLeaf : Obligations.OneEntryImportLeavesOneLeaf := by
  intro s n p trailing rest text herr hpos hlen hn hunits
  have hfit : 8 * text.length ≤ 524288 := by
    have hsep : (if trailing then [0x3B#8] else []).length ≤ 1 := by cases trailing <;> decide
    have htext : text.length = 2 + p.length + (if trailing then [0x3B#8] else []).length := by
      rw [List.length_append, entryText_length_eq]
    omega
  obtain ⟨nodes, ct, hexec, hct, hleaves, -⟩ := importAcceptsPrefixFreeTable s n [(s.eng.term, p)] trailing rest herr
    hunits hn hfit (List.nodup_singleton _) (List.pairwise_singleton ..) (by simpa using ⟨hpos, hlen⟩)
    ((List.dedup_sublist _).length_le.trans (by simp; omega)) ⟨p, by simp⟩
  refine ⟨_, hexec, herr, rfl, ?_, fun x q => ?_, rfl⟩
  · exact congrArg (BitVec.ofNat 64) hleaves
  · rw [hct, List.mem_singleton, Prod.mk.injEq]

/-! ### The entries of a usable tree (R160) -/

section
variable {e : Engine} (hU : e.UsableTree)
include hU

theorem Engine.UsableTree.lt_length_of_walkPath {p : Path} {h : Nat} (hp : walkPath e.nodes e.root p = some h) :
    h < e.nodes.length := by
  obtain rfl | ⟨q, b, rfl⟩ := List.eq_nil_or_concat' p
  · cases hp
    obtain ⟨l, r, hroot⟩ := kindAt_internal.1 hU.rootInternal
    exact lt_length_of_record hroot
  · obtain ⟨g, -, hg⟩ := walkPath_snoc.1 hp
    obtain ⟨l, r, hg'⟩ := internal_of_nextNode hg
    rw [nextNode_internal hg'] at hg
    refine hU.linksAllocated g h l r hg' ?_
    cases b
    · exact .inl hg
    · exact .inr hg

theorem Engine.UsableTree.leads {x : Sym} {p : Path} (hp : symGet e.ct x = some p) :
    ∃ h, walkPath e.nodes e.root p = some h := by
  obtain ⟨h, hh⟩ := (hU.codesAreLeaves x).1 (by simp [Engine.ctV, hp])
  have hw := hU.pathEndsAtLeaf h x hh
  rw [Engine.ctPath, hp] at hw
  exact ⟨h, hw⟩

/-- R23, R24: different paths lead to different records, so there are no more of them than records. -/
theorem Engine.UsableTree.paths_length_le {paths : List Path} (hnodup : paths.Nodup)
    (hpaths : ∀ p ∈ paths, ∃ h, walkPath e.nodes e.root p = some h) : paths.length ≤ e.nodes.length := by
  have hinj : (paths.map (walkPath e.nodes e.root)).Nodup := by
    refine hnodup.map_on fun p hp q _ hpq => ?_
    obtain ⟨h, hh⟩ := hpaths p hp
    obtain ⟨r, -, hr⟩ := hU.onePath h (hU.lt_length_of_walkPath hh)
    rw [hr p hh, hr q (hpq ▸ hh)]
  have hsub : paths.map (walkPath e.nodes e.root) ⊆ (List.range e.nodes.length).map some := by
    intro a ha
    obtain ⟨p, hp, rfl⟩ := List.mem_map.1 ha
    obtain ⟨h, hh⟩ := hpaths p hp
    rw [hh]
    exact List.mem_map_of_mem (List.mem_range.2 (hU.lt_length_of_walkPath hh))
  simpa using (hinj.subperm hsub).length_le

/-- R26 (d), R25, R23: the code table of a usable tree is a table without conflicts that fits the arena. -/
theorem Engine.UsableTree.importable : Importable (ctEntries e.ct) where
  symbolsDiffer := ctEntries_fst_nodup e.ct
  prefixFree := by
    have hfree : ∀ {a b : Sym × Path}, a ∈ ctEntries e.ct → b ∈ ctEntries e.ct → a.1 ≠ b.1 → ¬ a.2 <+: b.2 := by
      rintro ⟨x, p⟩ ⟨y, q⟩ ha hb hne hpre
      rw [mem_ctEntries] at ha hb
      exact hU.prefixFree x y (by simp [Engine.ctV, ha]) (by simp [Engine.ctV, hb]) hne
        (by simpa [Engine.ctPath, ha, hb] using hpre)
    exact (List.pairwise_map.1 (ctEntries_fst_nodup e.ct)).imp_of_mem
      fun ha hb hne => ⟨hfree ha hb hne, hfree hb ha hne.symm⟩
  pathLengths := by
    rintro ⟨x, p⟩ ha
    rw [mem_ctEntries] at ha
    have hlen := hU.pathLengths x (by simp [Engine.ctV, ha])
    rwa [Engine.ctLen, Engine.ctPath, ha] at hlen
  arenaBounded := by
    refine (hU.paths_length_le (List.nodup_dedup _) fun q hq => ?_).trans hU.arenaBounded
    obtain ⟨⟨x, p⟩, ha, hpre⟩ := List.mem_flatMap.1 (List.mem_dedup.1 hq)
    obtain ⟨r, rfl⟩ := (List.mem_inits ..).1 hpre
    obtain ⟨h, hh⟩ := hU.leads (mem_ctEntries.1 ha)
    rw [walkPath_append, Option.bind_eq_some_iff] at hh
    obtain ⟨c, hc, -⟩ := hh
    exact ⟨c, hc⟩

end

/-- Settles O44: the text is that of the tree's entries, which are importable, and a code table is its entries. -/
theorem exportThenImportGivesSameTable : Obligations.ExportThenImportGivesSameTable := by
  intro s s' n rest _ hU herr hterm hunits hn hfit
  have hI := hU.importable
  obtain ⟨p, hp⟩ := Option.isSome_iff_exists.1 hU.termHasCode
  have htext : joinEntries ((ctEntries s.eng.ct).map entryText) ++ (if false then [0x3B#8] else []) =
      exportText s.eng.ct := List.append_nil _
  obtain ⟨nodes, ct, hexec, hct, -⟩ := importAcceptsPrefixFreeTable s' n (ctEntries s.eng.ct) false rest herr
    (htext ▸ hunits) (htext ▸ hn) (htext ▸ hfit) hI.symbolsDiffer hI.prefixFree hI.pathLengths hI.arenaBounded
    ⟨p, mem_ctEntries.2 (hterm ▸ hp)⟩
  refine ⟨_, hexec, herr, rfl, symTable_ext fun x => Option.ext fun q => ?_, hU.tblBytes.symm, rfl⟩
  exact (hct x q).trans mem_ctEntries

end Sys2Proof.Machine
end

section
/-! The encoder: how its loop over a text's symbols ends, and what ENCODE leaves at each of these ends (43_codec.md R170
to R173). -/

namespace Sys2Proof.Machine

/-! ### The loop over the symbols (R170) -/

theorem ctV_iff {e : Engine} {x : Sym} : e.ctV x = true ↔ symGet e.ct x = some (e.ctPath x) := by
  cases hx : symGet e.ct x <;> simp [Engine.ctV, Engine.ctPath, hx]

theorem ctV_eq_false_iff {e : Engine} {x : Sym} : e.ctV x = false ↔ symGet e.ct x = none := by
  simp [Engine.ctV]

/-- A run that goes on after these bits and this number of symbols. -/
def EncodeRun.after (r : EncodeRun) (bits : List Bool) (read : Nat) : EncodeRun :=
  { bits := bits ++ r.bits, read := read + r.read, stop := r.stop }

theorem encodeText_noCode {ct : CodeTable} {x : Sym} (room j : Nat) (more : List Sym) (hx : symGet ct x = none) :
    encodeText ct room j (x :: more) = { bits := [], read := 1, stop := .noCode x j } := by
  simp [encodeText, hx]

/-- A path longer than the room left fills the buffer up. -/
theorem encodeText_full {ct : CodeTable} {x : Sym} {p : Path} {room : Nat} (j : Nat) (more : List Sym)
    (hx : symGet ct x = some p) (hfull : room < p.length) :
    encodeText ct room j (x :: more) = { bits := p.take room, read := 1, stop := .full } := by
  simp [encodeText, hx, Nat.not_le.2 hfull]

/-- A path that fits is appended, and the loop goes on after its symbol. -/
theorem encodeText_fits {ct : CodeTable} {x : Sym} {p : Path} {room : Nat} (j : Nat) (more : List Sym)
    (hx : symGet ct x = some p) (hfit : p.length ≤ room) :
    encodeText ct room j (x :: more) = (encodeText ct (room - p.length) (j + 1) more).after p 1 := by
  simp [encodeText, hx, hfit, EncodeRun.after, Nat.add_comm 1]

section
variable {e : Engine} {room j : Nat}

/-- Symbols that all have codes and whose paths fit are appended one after another; the loop goes on after them. -/
theorem encodeText_append {done : List Sym} (rest : List Sym) (hcodes : ∀ y ∈ done, e.ctV y = true)
    (hfit : (done.flatMap e.ctPath).length ≤ room) :
    encodeText e.ct room j (done ++ rest) =
      (encodeText e.ct (room - (done.flatMap e.ctPath).length) (j + done.length) rest).after
        (done.flatMap e.ctPath) done.length := by
  induction done generalizing room j with
  | nil => simp [EncodeRun.after]
  | cons x done ih =>
    obtain ⟨hx, hcodes⟩ := List.forall_mem_cons.1 hcodes
    rw [List.flatMap_cons, List.length_append] at hfit
    rw [List.cons_append, encodeText_fits j _ (ctV_iff.1 hx) (by omega), ih hcodes (by omega)]
    simp [EncodeRun.after, Nat.sub_sub, Nat.add_assoc, Nat.add_comm 1]

theorem encodeText_covered {text : List Sym} (hcodes : ∀ y ∈ text, e.ctV y = true)
    (hfit : (text.flatMap e.ctPath).length ≤ room) :
    encodeText e.ct room j text = { bits := text.flatMap e.ctPath, read := text.length, stop := .finished } := by
  have happend := encodeText_append (j := j) [] hcodes hfit
  simpa [encodeText, EncodeRun.after] using happend

/-- The loop comes to its end only where every symbol has a code and the paths fit. -/
theorem covered_of_encodeText_finished {text : List Sym} (hstop : (encodeText e.ct room j text).stop = .finished) :
    (∀ y ∈ text, e.ctV y = true) ∧ (text.flatMap e.ctPath).length ≤ room := by
  induction text generalizing room j with
  | nil => simp
  | cons x text ih =>
    cases hx : e.ctV x with
    | false =>
      rw [encodeText_noCode _ _ _ (ctV_eq_false_iff.1 hx)] at hstop
      cases hstop
    | true =>
      by_cases hfit : (e.ctPath x).length ≤ room
      · rw [encodeText_fits _ _ (ctV_iff.1 hx) hfit] at hstop
        obtain ⟨hcodes, hrest⟩ := ih hstop
        refine ⟨List.forall_mem_cons.2 ⟨hx, hcodes⟩, ?_⟩
        rw [List.flatMap_cons, List.length_append]
        omega
      · rw [encodeText_full _ _ (ctV_iff.1 hx) (Nat.lt_of_not_le hfit)] at hstop
        cases hstop

end

/-! ### The ends of the body -/

/-- The state after `k` symbols are read from SYMIN and these bits are in the buffer. -/
def State.encoded (s : State) (k : Nat) (bits : List Bool) : State :=
  (s.readSym k).setEng ((s.readSym k).eng.setBb bits)

/-- R34: at the start of a command the symbols read are all that SYM_COUNT counts. -/
theorem encoded_zeroCounters (s : State) (k : Nat) (bits : List Bool) :
    (s.setEng s.eng.zeroCounters).encoded k bits = { s with
      symIn := { s.symIn with units := s.symIn.units.drop k }
      eng := { s.eng with inCount := 0#64, outCount := 0#64, symCount := BitVec.ofNat 64 k, bb := bits } } := by
  simp [State.encoded, State.readSym, State.setEng, Engine.setBb, Engine.zeroCounters]

section
variable {s : State} {n : BitVec 32} {bits : List Bool} {k : Nat}

theorem encodeBody_noCode {x : Sym} {j : Nat}
    (hrun : encodeText s.eng.ct Config.bbCapBits 0 (s.symIn.units.take n.toNat) = ⟨bits, k, .noCode x j⟩) :
    encodeBody n s = .raised (s.encoded k bits) .alphabet (infoSym x) (infoNat j) := by
  simp only [encodeBody, countOf, hrun, State.encoded]

theorem encodeBody_full
    (hrun : encodeText s.eng.ct Config.bbCapBits 0 (s.symIn.units.take n.toNat) = ⟨bits, k, .full⟩) :
    encodeBody n s = .raised (s.encoded k bits) .resource 1#64 (infoNat (Config.bbCapBits + 1)) := by
  simp only [encodeBody, countOf, hrun, State.encoded]

/-- SYMIN ends before the `n` symbols. -/
theorem encodeBody_short (hlen : s.symIn.units.length < n.toNat)
    (hrun : encodeText s.eng.ct Config.bbCapBits 0 s.symIn.units = ⟨bits, k, .finished⟩) :
    encodeBody n s = atEndOfSym (s.encoded k bits)
      (.raised (s.encoded k bits) .truncation (infoNat n.toNat) (infoNat s.symIn.units.length)) := by
  simp only [encodeBody, countOf, List.take_of_length_le hlen.le, hrun, State.encoded, if_pos hlen]

/-- With all `n` symbols appended the terminator is left. -/
theorem encodeBody_enough (hlen : n.toNat ≤ s.symIn.units.length)
    (hrun : encodeText s.eng.ct Config.bbCapBits 0 (s.symIn.units.take n.toNat) = ⟨bits, k, .finished⟩) :
    encodeBody n s = encodeFinish (s.symIn.units.take n.toNat) (s.encoded k bits) := by
  simp only [encodeBody, countOf, hrun, State.encoded, List.length_take_of_le hlen, Nat.lt_irrefl, if_false]

end

/-- R171: the text as it is encoded, with TERM after it unless it ends in TERM. -/
def Engine.closedText (e : Engine) (text : List Sym) : List Sym :=
  if text.getLast? = some e.term then text else text ++ [e.term]

/-- R79: the bits of an encoded term before the padding. -/
def Engine.termBits (e : Engine) (text : List Sym) : List Bool := (e.closedText text).flatMap e.ctPath

theorem termBits_eq (e : Engine) (text : List Sym) :
    e.termBits text = text.flatMap e.ctPath ++ terminatorPath e text := by
  unfold Engine.termBits Engine.closedText terminatorPath
  split <;> simp

theorem termBits_of_open {e : Engine} {text : List Sym} (hlast : text.getLast? ≠ some e.term) :
    e.termBits text = (text ++ [e.term]).flatMap e.ctPath := by
  rw [Engine.termBits, Engine.closedText, if_neg hlast]

/-- R170's last lines. -/
theorem encodeFinish_encoded (s : State) (k : Nat) (text : List Sym) :
    encodeFinish text (s.encoded k (text.flatMap s.eng.ctPath)) =
      if (s.eng.termBits text).length ≤ Config.bbCapBits then
        .ok ((s.encoded k (s.eng.termBits text)).writeOut (packBytes (s.eng.termBits text)))
      else .raised (s.encoded k ((s.eng.termBits text).take Config.bbCapBits)) .resource 1#64
        (infoNat (Config.bbCapBits + 1)) := by
  rw [termBits_eq]
  rfl

/-- The body comes to the terminator where all the symbols are there, have codes and fit. -/
theorem encodeBody_covered {s : State} {n : BitVec 32} (hlen : n.toNat ≤ s.symIn.units.length)
    (hcodes : ∀ x ∈ s.symIn.units.take n.toNat, s.eng.ctV x = true)
    (hfit : ((s.symIn.units.take n.toNat).flatMap s.eng.ctPath).length ≤ Config.bbCapBits) :
    encodeBody n s = encodeFinish (s.symIn.units.take n.toNat)
      (s.encoded n.toNat ((s.symIn.units.take n.toNat).flatMap s.eng.ctPath)) := by
  have hrun := encodeText_covered (j := 0) hcodes hfit
  rw [List.length_take_of_le hlen] at hrun
  exact encodeBody_enough hlen hrun

section
variable {s : State} {n : BitVec 32} (hlen : n.toNat ≤ s.symIn.units.length)
  (hcodes : ∀ x ∈ s.symIn.units.take n.toNat, s.eng.ctV x = true)
include hlen hcodes

theorem encodeBody_completes (hfit : (s.eng.termBits (s.symIn.units.take n.toNat)).length ≤ Config.bbCapBits) :
    encodeBody n s = .ok
      ((s.encoded n.toNat (s.eng.termBits (s.symIn.units.take n.toNat))).writeOut
        (packBytes (s.eng.termBits (s.symIn.units.take n.toNat)))) := by
  have htext := hfit
  rw [termBits_eq, List.length_append] at htext
  rw [encodeBody_covered hlen hcodes (Nat.le_of_add_right_le htext), encodeFinish_encoded, if_pos hfit]

theorem encodeBody_terminatorFull
    (hfit : ((s.symIn.units.take n.toNat).flatMap s.eng.ctPath).length ≤ Config.bbCapBits)
    (hfull : Config.bbCapBits < (s.eng.termBits (s.symIn.units.take n.toNat)).length) :
    encodeBody n s = .raised
      (s.encoded n.toNat ((s.eng.termBits (s.symIn.units.take n.toNat)).take Config.bbCapBits))
      .resource 1#64 (infoNat (Config.bbCapBits + 1)) := by
  rw [encodeBody_covered hlen hcodes hfit, encodeFinish_encoded, if_neg (Nat.not_le.2 hfull)]

end

/-- Where it comes to its last line all the symbols have codes and the term's bits fit. -/
theorem covered_of_encodeBody_ok {s t : State} {n : BitVec 32} (hlen : n.toNat ≤ s.symIn.units.length)
    (hok : encodeBody n s = .ok t) :
    (∀ x ∈ s.symIn.units.take n.toNat, s.eng.ctV x = true) ∧
    (s.eng.termBits (s.symIn.units.take n.toNat)).length ≤ Config.bbCapBits := by
  obtain ⟨bits, k, stop, hrun⟩ : ∃ bits k stop, encodeText s.eng.ct Config.bbCapBits 0 (s.symIn.units.take n.toNat) =
      ⟨bits, k, stop⟩ := ⟨_, _, _, rfl⟩
  cases stop with
  | noCode x j =>
    rw [encodeBody_noCode hrun] at hok
    cases hok
  | full =>
    rw [encodeBody_full hrun] at hok
    cases hok
  | finished =>
    obtain ⟨hcodes, hfit⟩ := covered_of_encodeText_finished (congrArg EncodeRun.stop hrun)
    refine ⟨hcodes, ?_⟩
    by_contra hfull
    rw [encodeBody_terminatorFull hlen hcodes hfit (Nat.lt_of_not_le hfull)] at hok
    cases hok

/-! ### The command -/

/-- ENCODE at its last line: the term's bits stay in the buffer and their bytes go to OUT. -/
theorem execEncode_completes {s : State} {n : BitVec 32} (herr : s.eng.err = false) (htree : s.eng.treeValid = true)
    (hlen : n.toNat ≤ s.symIn.units.length) (hcodes : ∀ x ∈ s.symIn.units.take n.toNat, s.eng.ctV x = true)
    (hfit : (s.eng.termBits (s.symIn.units.take n.toNat)).length ≤ Config.bbCapBits) :
    exec (.encode n) s = .next { s with
      symIn := { s.symIn with units := s.symIn.units.drop n.toNat }
      out := s.out ++ packBytes (s.eng.termBits (s.symIn.units.take n.toNat))
      eng := { s.eng with
        inCount := 0#64, symCount := BitVec.ofNat 64 n.toNat
        outCount := BitVec.ofNat 64 (((s.eng.termBits (s.symIn.units.take n.toNat)).length + 7) / 8)
        bb := s.eng.termBits (s.symIn.units.take n.toNat) } } := by
  have hbody : encodeBody n (s.setEng s.eng.zeroCounters) =
      .ok (((s.setEng s.eng.zeroCounters).encoded n.toNat (s.eng.termBits (s.symIn.units.take n.toNat))).writeOut
        (packBytes (s.eng.termBits (s.symIn.units.take n.toNat)))) := encodeBody_completes hlen hcodes hfit
  rw [encoded_zeroCounters] at hbody
  rw [exec_of_needTree (.encode n) nofun nofun herr htree rfl hbody, ← packBytes_length]
  simp [State.writeOut]

/-- Settles O45: the term's bits are those of the closed text's paths. -/
theorem encodeCompletes : Obligations.EncodeCompletes :=
  fun _ _ herr htree hlen hcodes hfit => execEncode_completes herr htree hlen hcodes hfit

/-- A raise of ENCODE: `k` symbols stay consumed, these bits stay in the buffer, and nothing goes to OUT (R228). -/
theorem execEncode_raised {s : State} {n : BitVec 32} {k : Nat} {bits : List Bool} {code : ErrCode} {i0 i1 : Reg}
    (herr : s.eng.err = false) (htree : s.eng.treeValid = true)
    (hbody : encodeBody n (s.setEng s.eng.zeroCounters) =
      .raised ((s.setEng s.eng.zeroCounters).encoded k bits) code i0 i1) :
    exec (.encode n) s = .next { s with
      symIn := { s.symIn with units := s.symIn.units.drop k }
      eng := { s.eng with
        inCount := 0#64, outCount := 0#64, symCount := BitVec.ofNat 64 k, bb := bits
        err := true, errCode := code, errOp := 0x30#8, errInfo0 := i0, errInfo1 := i1 } } := by
  rw [encoded_zeroCounters] at hbody
  exact exec_of_needTree (.encode n) nofun nofun herr htree rfl hbody

section
variable {s : State} {n : BitVec 32} {done more : List Sym} {x : Sym} (hunits : s.symIn.units = done ++ x :: more)
  (hn : done.length < n.toNat) (hcodes : ∀ y ∈ done, s.eng.ctV y = true)
  (hfit : (done.flatMap s.eng.ctPath).length ≤ Config.bbCapBits)
include hunits hn hcodes hfit

/-- The loop comes to the symbol after those that are covered. -/
theorem encodeText_take_units : ∃ later, encodeText s.eng.ct Config.bbCapBits 0 (s.symIn.units.take n.toNat) =
    (encodeText s.eng.ct (Config.bbCapBits - (done.flatMap s.eng.ctPath).length) done.length (x :: later)).after
      (done.flatMap s.eng.ctPath) done.length := by
  refine ⟨more.take (n.toNat - done.length - 1), ?_⟩
  rw [hunits, List.take_append, List.take_of_length_le hn.le, List.take_cons (Nat.sub_pos_of_lt hn),
    encodeText_append _ hcodes hfit, Nat.zero_add]

theorem encodeBody_firstNoCode (hx : s.eng.ctV x = false) :
    encodeBody n s = .raised (s.encoded (done.length + 1) (done.flatMap s.eng.ctPath)) .alphabet (infoSym x)
      (infoNat done.length) := by
  obtain ⟨later, hrun⟩ := encodeText_take_units hunits hn hcodes hfit
  rw [encodeText_noCode _ _ _ (ctV_eq_false_iff.1 hx), EncodeRun.after, List.append_nil] at hrun
  exact encodeBody_noCode hrun

theorem encodeBody_firstFull (hx : s.eng.ctV x = true)
    (hfull : Config.bbCapBits < ((done ++ [x]).flatMap s.eng.ctPath).length) :
    encodeBody n s = .raised
      (s.encoded (done.length + 1) (((done ++ [x]).flatMap s.eng.ctPath).take Config.bbCapBits)) .resource 1#64
      (infoNat (Config.bbCapBits + 1)) := by
  rw [List.flatMap_append, List.flatMap_singleton, List.length_append] at hfull
  rw [List.flatMap_append, List.flatMap_singleton, List.take_append, List.take_of_length_le hfit]
  obtain ⟨later, hrun⟩ := encodeText_take_units hunits hn hcodes hfit
  rw [encodeText_full _ _ (ctV_iff.1 hx) (by omega), EncodeRun.after] at hrun
  exact encodeBody_full hrun

end

/-- Settles O46: each error is where the loop, the stream or the terminator stops the body. -/
theorem encodeErrors : Obligations.EncodeErrors := by
  intro s n herr htree
  refine ⟨fun done x more hunits hn hcodes hfit => ?_, fun hn heof hcodes hfit => ?_,
    fun hlen hcodes hlast hfit hfull => ?_⟩
  · have hmore : s.symIn.units.drop (done.length + 1) = more := by simp [hunits]
    rw [← hmore]
    exact ⟨fun hx => execEncode_raised herr htree (encodeBody_firstNoCode hunits hn hcodes hfit hx),
      fun hx hfull => execEncode_raised herr htree (encodeBody_firstFull hunits hn hcodes hfit hx hfull)⟩
  · have hrun := encodeText_covered (j := 0) hcodes hfit
    have hbody := encodeBody_short (s := s.setEng s.eng.zeroCounters) hn hrun
    rw [← List.drop_length (l := s.symIn.units), ← infoNat_toNat]
    exact execEncode_raised herr htree (hbody.trans (atEndOfSym_eof _ heof))
  · rw [← termBits_of_open hlast] at hfull ⊢
    exact execEncode_raised herr htree
      (encodeBody_terminatorFull (s := s.setEng s.eng.zeroCounters) hlen hcodes hfit hfull)

end Sys2Proof.Machine
end

section
/-! The decoders: the one walk of both and the bytes it reads, decoding to the terminator, what ENCODE wrote read back,
and the walk in a full tree (43_codec.md R174 to R187). -/

namespace Sys2Proof.Machine

/-! ### One walk, and no byte beyond it (R174, R175, R184) -/

theorem walkBits_append_of_returned {env : WalkEnv} {w w' : Walk} {front : List Bool} (rest : List Bool)
    (h : walkBits env w front = .returned w') : walkBits env w (front ++ rest) = .returned w' := by
  rw [walkBits_append_of_ended rest (by simp [h]), h]

/-- Settles O50: the walk over bytes by its recursion, and a walk that has ended looks at no later bit. -/
theorem oneWalkForBothDecoders : Obligations.OneWalkForBothDecoders :=
  ⟨walkBytes_fst, fun _ _ _ _ after h => walkBits_append_of_returned after h⟩

/-- The bytes begun are no more than there are. -/
theorem begun_le_length (env : WalkEnv) (root : Handle) (bytes : List Byte) :
    ((walkBits env (Walk.start root) (bytesToBits bytes)).walk.k + 7) / 8 ≤ bytes.length := by
  have hk : (walkBits env (Walk.start root) (bytesToBits bytes)).walk.k ≤ 0 + (bytesToBits bytes).length :=
    (walkBits_k_bounds env (Walk.start root) (bytesToBits bytes)).2
  rw [bytesToBits_length] at hk
  omega

/-- R184: the bytes read are those begun, however the walk ended. -/
theorem walkBytes_read {env : WalkEnv} {root : Handle} {bytes : List Byte} {r : WalkStep} {m : Nat}
    (h : walkBytes env (Walk.start root) bytes = (r, m)) : m = (r.walk.k + 7) / 8 ∧ m ≤ bytes.length := by
  rw [walkBytes_start rfl] at h
  cases h
  exact ⟨rfl, begun_le_length env root bytes⟩

/-- R185: the command's body is the walk over IN's bits, and the end of that walk. -/
theorem decodeStreamBody_of_walk {s : State} {cap : BitVec 32} {r : WalkStep}
    (hr : walkBits (walkEnv s.eng (some cap.toNat)) (Walk.start s.eng.root) (bytesToBits s.inp.units) = r) :
    decodeStreamBody cap s = finishWalk (s.readIn ((r.walk.k + 7) / 8))
      (fun w s' => atEndOfIn s' (.raised s' .truncation (infoNat w.k) s'.eng.inCount)) r := by
  rw [decodeStreamBody, countOf, walkBytes_start hr]

/-- R259: a command that answers at the end of IN met end of data there. -/
theorem finish_of_atEndOfIn {op : BitVec 8} {s t : State} {r : Result} (h : finish op (atEndOfIn s r) = .next t) :
    finish op r = .next t := by
  cases htail : s.inp.tail with
  | eof => rwa [atEndOfIn_eof r htail] at h
  | withheld =>
    rw [atEndOfIn_withheld r htail] at h
    cases h

/-- Settles O51: the walk over bytes reads those it began, and the command drops what the walk read, at each end. -/
theorem noOverRead : Obligations.NoOverRead := by
  refine ⟨fun env root bytes w m h => ?_, ?_⟩
  · obtain h | h | ⟨code, i0, i1, h⟩ := h <;> exact walkBytes_read h
  · intro s t cap herr htree hexec r
    have hbody := decodeStreamBody_of_walk (s := s.setEng s.eng.zeroCounters) (cap := cap) (r := r) rfl
    have hle : (r.walk.k + 7) / 8 ≤ s.inp.units.length := begun_le_length _ _ _
    rw [exec_of_needTree (.decodeStream cap) nofun nofun herr htree rfl hbody] at hexec
    refine ⟨r.walk, ?_⟩
    clear_value r
    cases r with
    | running w =>
      cases finish_of_atEndOfIn hexec
      exact ⟨.inl ⟨rfl, rfl⟩, hle, rfl, BitVec.zero_add _⟩
    | returned w =>
      cases hexec
      exact ⟨.inr (.inl ⟨rfl, herr⟩), hle, rfl, BitVec.zero_add _⟩
    | failed w code i0 i1 =>
      cases hexec
      exact ⟨.inr (.inr ⟨code, i0, i1, rfl, rfl, rfl, rfl⟩), hle, rfl, BitVec.zero_add _⟩

/-! ### Decoding to the terminator (R174) -/

/-- A path to the TERM leaf ends the walk at its last bit. -/
theorem walkBits_toTermLeaf {env : WalkEnv} {w : Walk} {p : Path} {c : Handle} (hne : p ≠ [])
    (hp : walkPath env.nodes w.h p = some c) (hc : env.nodes[c]? = some (.leaf env.term)) :
    walkBits env w p = .returned { w with h := c, k := w.k + p.length } := by
  obtain ⟨q, b, rfl⟩ := List.eq_nil_or_concat' p |>.resolve_left hne
  obtain ⟨g, hg, hw⟩ := walkBits_snoc hp
  rw [hw, walkBit_term hg hc, List.length_append, List.length_singleton, Nat.add_assoc]

/-- R26 (b), (e): after the code words of data symbols TERM's code word ends the walk. -/
theorem walkBits_terminated {e : Engine} {cap : Option Nat} {text : List Sym} (hU : e.UsableTree) (hd : e.DataText text)
    (hroom : text.length ≤ 4096) (hcap : ∀ n, cap = some n → text.length ≤ n) :
    ∃ c, walkBits (walkEnv e cap) (Walk.start e.root) (text.flatMap e.ctPath ++ e.ctPath e.term) =
      .returned { h := c, k := (text.flatMap e.ctPath ++ e.ctPath e.term).length, obuf := text } := by
  obtain ⟨c, hc⟩ := (hU.codesAreLeaves e.term).1 hU.termHasCode
  have hlen : 0 < (e.ctPath e.term).length := (hU.pathLengths e.term hU.termHasCode).1
  refine ⟨c, ?_⟩
  rw [walkBits_append_of_running _ (walkBits_start_dataText hU hd hroom hcap), List.length_append]
  exact walkBits_toTermLeaf (env := walkEnv e cap) (List.ne_nil_of_length_pos hlen) (hU.pathEndsAtLeaf c e.term hc) hc

/-- The state after a decoder that read `k` bytes wrote these symbols to SYMOUT. -/
theorem writeSymOut_keepWalk_zeroCounters (s : State) (k : Nat) (w : Walk) :
    (((s.setEng s.eng.zeroCounters).readIn k).keepWalk w).writeSymOut w.obuf = { s with
      inp := { s.inp with units := s.inp.units.drop k }
      symOut := s.symOut ++ w.obuf
      eng := { s.eng with
        inCount := BitVec.ofNat 64 k, outCount := 0#64
        symCount := BitVec.ofNat 64 w.obuf.length, obuf := w.obuf } } := by
  simp [State.keepWalk, State.writeSymOut, State.readIn, State.setEng, Engine.zeroCounters]

/-- Settles O47: the walk over the buffer returns at the terminator, whatever bits follow. -/
theorem decodeBbCompletes : Obligations.DecodeBbCompletes := by
  intro s text after herr htree hU hd hroom hbb
  obtain ⟨c, hw⟩ := walkBits_terminated (cap := none) hU hd hroom (by simp)
  have hall := walkBits_append_of_returned after hw
  rw [← hbb] at hall
  have hbody : decodeBbBody (s.setEng s.eng.zeroCounters) = _ := congrArg (finishWalk _ _) hall
  rw [exec_of_needTree .decodeBb nofun nofun herr htree rfl hbody, finishWalk_returned, finish_ok]
  exact congrArg (finish 0x31#8 ∘ Result.ok) (writeSymOut_keepWalk_zeroCounters s 0 _)

/-- Settles O48: the walk over IN's bits returns inside the term's last byte, so the term's bytes are those begun. -/
theorem decodeStreamCompletes : Obligations.DecodeStreamCompletes := by
  intro s cap text term rest padding herr htree hU hd hroom hlecap hpad hbits hunits
  obtain ⟨c, hw⟩ := walkBits_terminated (cap := some cap.toNat) hU hd hroom (by simpa using hlecap)
  have hall := walkBits_append_of_returned (padding ++ bytesToBits rest) hw
  rw [← List.append_assoc, ← hbits, ← bytesToBits_append, ← hunits] at hall
  have hlen := congrArg List.length hbits
  rw [bytesToBits_length, List.length_append] at hlen
  have hread : ((text.flatMap s.eng.ctPath ++ s.eng.ctPath s.eng.term).length + 7) / 8 = term.length := by omega
  have hbody := decodeStreamBody_of_walk (s := s.setEng s.eng.zeroCounters) hall
  rw [exec_of_needTree (.decodeStream cap) nofun nofun herr htree rfl hbody, finishWalk_returned, finish_ok,
    writeSymOut_keepWalk_zeroCounters, WalkStep.walk, hread, hunits, List.drop_left]

/-! ### What ENCODE wrote (R186) -/

/-- R12, R101: a byte's bits are those packed into it, and then zeros. -/
theorem byteBits_byteOfBits {bits : List Bool} (hlen : bits.length ≤ 8) :
    byteBits (byteOfBits bits) = bits ++ List.replicate (8 - bits.length) false := by
  have hbits : byteBits (byteOfBits bits) = (List.range 8).map (fun k => (byteOfBits bits).getLsbD (7 - k)) := rfl
  rw [hbits]
  refine List.ext_getElem (by simp [hlen]) fun k hk _ => ?_
  have hk8 : k < 8 := by simpa using hk
  rw [List.getElem_map, List.getElem_range, byteOfBits_getLsbD hlen hk8, ← getD_append_replicate bits (8 - bits.length),
    List.getD_eq_getElem]

/-- R101: packed bits read back, with less than a byte of padding after them. -/
theorem bytesToBits_packBytes (bits : List Bool) :
    ∃ padding, padding.length < 8 ∧ bytesToBits (packBytes bits) = bits ++ padding := by
  by_cases hnil : bits = []
  · exact ⟨[], by simp, by simp [hnil, packBytes, bytesToBits]⟩
  rw [packBytes_of_ne_nil hnil, bytesToBits_cons, byteBits_byteOfBits (List.length_take_le 8 bits)]
  have hpos := List.length_pos_iff.2 hnil
  by_cases hlast : bits.length ≤ 8
  · refine ⟨List.replicate (8 - bits.length) false, by simp [hpos], ?_⟩
    rw [List.drop_of_length_le hlast, List.take_of_length_le hlast]
    simp [packBytes, bytesToBits]
  · obtain ⟨padding, hpad, hrest⟩ := bytesToBits_packBytes (bits.drop 8)
    refine ⟨padding, hpad, ?_⟩
    rw [hrest, List.length_take_of_le (Nat.le_of_not_le hlast), ← List.append_assoc]
    simp
termination_by bits.length
decreasing_by simp [hpos]

/-- An ENCODE that succeeds found a code for every symbol, and room for the closed text. -/
theorem covered_of_execEncode {s t : State} {n : BitVec 32} (herr : s.eng.err = false) (htree : s.eng.treeValid = true)
    (hlen : n.toNat ≤ s.symIn.units.length) (hexec : exec (.encode n) s = .next t) (hok : t.eng.err = false) :
    (∀ x ∈ s.symIn.units.take n.toNat, s.eng.ctV x = true) ∧
    (s.eng.termBits (s.symIn.units.take n.toNat)).length ≤ Config.bbCapBits := by
  obtain ⟨hdrop, -⟩ | ⟨-, hbody⟩ | ⟨-, u, code, i0, i1, -, rfl⟩ := runCommand_next hexec
  · simp [herr] at hdrop
  · rw [needTree_valid _ _ (by exact htree)] at hbody
    exact covered_of_encodeBody_ok (s := s.setEng s.eng.zeroCounters) hlen hbody
  · cases hok

/-- R171: a text with or without its final TERM is closed to the same text. -/
theorem closedText_of_data {e : Engine} {text text0 : List Sym} (htext : text = text0 ∨ text = text0 ++ [e.term])
    (hterm : e.term ∉ text0) : e.closedText text = text0 ++ [e.term] := by
  obtain rfl | rfl := htext
  · exact if_neg fun hlast => hterm (List.mem_of_getLast? hlast)
  · exact if_pos (by simp)

/-- Settles O49: the bits that ENCODE packed and left in the buffer are those of an encoded term of the text. -/
theorem encodeThenDecodeGivesText : Obligations.EncodeThenDecodeGivesText := by
  intro s t n cap text0 rest herr htree hU hlen htext hterm hlecap hroom hexec hok
  obtain ⟨hcodes, hfit⟩ := covered_of_execEncode herr htree hlen hexec hok
  have hd : s.eng.DataText text0 := by
    refine fun x hx => ⟨hcodes x ?_, fun h => hterm (h ▸ hx)⟩
    obtain h | h := htext <;> simp [h, hx]
  have hbits : s.eng.termBits (s.symIn.units.take n.toNat) =
      text0.flatMap s.eng.ctPath ++ s.eng.ctPath s.eng.term := by
    rw [Engine.termBits, closedText_of_data htext hterm, List.flatMap_append, List.flatMap_singleton]
  rw [execEncode_completes herr htree hlen hcodes hfit, hbits] at hexec
  cases hexec
  obtain ⟨padding, hpad, hpacked⟩ := bytesToBits_packBytes (text0.flatMap s.eng.ctPath ++ s.eng.ctPath s.eng.term)
  exact ⟨⟨_, decodeStreamCompletes _ cap text0 _ rest padding herr htree { hU with } hd hroom hlecap hpad hpacked
      (congrArg (· ++ rest) List.drop_left), herr, rfl, rfl⟩,
    ⟨_, decodeBbCompletes _ text0 [] herr htree { hU with } hd hroom (List.append_nil _).symm, herr, rfl⟩⟩

/-! ### Full trees (R176) -/

/-- A walk stands at an INTERNAL record while it runs, and raises no MALFORMED. -/
def WalkStep.InFullTree (e : Engine) : WalkStep → Prop
  | .running w => e.kindAt w.h = .internal
  | .returned _ => True
  | .failed _ code _ _ => code ≠ .malformed

section
variable {e : Engine} (hU : e.UsableTree) (hfull : e.FullTree) (cap : Option Nat)
include hU

theorem storeSymbol_inFullTree (x : Sym) (w : Walk) : (storeSymbol (walkEnv e cap) x w).InFullTree e := by
  unfold storeSymbol
  split
  · exact nofun
  · split
    · exact nofun
    · exact hU.rootInternal

include hfull

/-- R176: in a full tree every bit finds a child, and the child is allocated. -/
theorem walkBit_inFullTree {w : Walk} (b : Bool) (hw : e.kindAt w.h = .internal) :
    (walkBit (walkEnv e cap) w b).InFullTree e := by
  obtain ⟨l, r, hh⟩ := kindAt_internal.1 hw
  obtain ⟨c, hc⟩ : ∃ c, childOf l r b = some c := by
    obtain ⟨hl, hr⟩ := hfull w.h l r hh
    cases b
    · exact Option.isSome_iff_exists.1 hl
    · exact Option.isSome_iff_exists.1 hr
  have hnext : nextNode (walkEnv e cap).nodes w.h b = some c := (nextNode_internal hh b).trans hc
  have hlt : c < e.nodes.length := hU.linksAllocated w.h c l r hh (by
    cases b
    · exact .inl hc
    · exact .inr hc)
  cases hrec : e.nodes[c]? with
  | none => exact absurd (List.getElem?_eq_none_iff.1 hrec) (Nat.not_le_of_lt hlt)
  | some a =>
    cases a with
    | internal l' r' =>
      rw [walkBit_internal hnext hrec]
      exact kindAt_internal.2 ⟨l', r', hrec⟩
    | leaf x =>
      by_cases hx : x = e.term
      · subst hx
        rw [walkBit_term hnext hrec]
        trivial
      · rw [walkBit_data hnext hrec hx]
        exact storeSymbol_inFullTree hU cap x _

theorem walkBits_inFullTree {w : Walk} (bits : List Bool) (hw : e.kindAt w.h = .internal) :
    (walkBits (walkEnv e cap) w bits).InFullTree e := by
  induction bits generalizing w with
  | nil => exact hw
  | cons b bits ih =>
    have hb := walkBit_inFullTree hU hfull cap b hw
    simp only [walkBits]
    split <;> rename_i hstep <;> rw [hstep] at hb
    · exact ih hb
    · exact hb
    · exact hb

end

/-- A decode from ERR = 0 leaves ERR as it is at its last line, and raises what the walk raises or what `onEnd` does. -/
theorem finishWalk_notMalformed {e : Engine} {s : State} {onEnd : Walk → State → Result} {r : WalkStep}
    (herr : s.eng.err = false) (hr : r.InFullTree e)
    (hend : ∀ w, (onEnd w (s.keepWalk w)).Ends (fun e => e.err = false) (fun _ code => code ≠ .malformed)) :
    (finishWalk s onEnd r).Ends (fun e => e.err = false) (fun _ code => code ≠ .malformed) := by
  cases r with
  | running w => exact hend w
  | returned w => exact herr
  | failed w code i0 i1 => exact hr

/-- A command whose body raises no MALFORMED leaves none where it leaves an error. -/
theorem runCommand_notMalformed {op : BitVec 8} {body : State → Result} {s t : State} (herr : s.eng.err = false)
    (h : runCommand op (needTree op body) s = .next t)
    (hbody : (body (s.setEng s.eng.zeroCounters)).Ends (fun e => e.err = false) (fun _ code => code ≠ .malformed)) :
    t.eng.err = true → t.eng.errCode ≠ .malformed :=
  runCommand_keeps (P := fun e => e.err = true → e.errCode ≠ .malformed) h
    (fun hdrop => absurd (herr.symm.trans hdrop) nofun)
    fun _ => needTree_ends (fun _ _ _ => nofun) fun _ =>
      hbody.imp (fun _ hno hyes => absurd (hno.symm.trans hyes) nofun) fun _ _ hcode _ _ _ => hcode

/-- Settles O53: the walk from ROOT stays at INTERNAL records with two children. -/
theorem fullTreeNeverMalformed : Obligations.FullTreeNeverMalformed := by
  rintro s t i (rfl | ⟨cap, rfl⟩) herr - hU hfull h
  · refine runCommand_notMalformed herr h (finishWalk_notMalformed (e := s.eng) herr ?_ fun w => nofun)
    exact walkBits_inFullTree hU hfull none s.eng.bb hU.rootInternal
  · refine runCommand_notMalformed herr h ?_
    rw [decodeStreamBody_of_walk rfl]
    refine finishWalk_notMalformed (e := s.eng) herr ?_ fun w => atEndOfIn_ends nofun
    exact walkBits_inFullTree hU hfull (some cap.toNat) (bytesToBits s.inp.units) hU.rootInternal

end Sys2Proof.Machine
end

section
/-! The control commands: what NOP, RESET, ERR_ACK and SET_TERM do, and which descriptors are theirs (45_control.md
R200 to R204). -/

namespace Sys2Proof

/-- A row that uses OP alone takes every descriptor with its OP (R76). -/
theorem decode_of_ignored {d : Descriptor} {op : BitVec 8} {i : Instr} (hmem : (op, .ignored i) ∈ commandForms)
    (hop : opField d = op) : decode d = .ok i :=
  decode_of_mem _ hmem hop

/-- R203: a row that uses SYM alone refuses RSV, N or VAL that is not 0. -/
theorem decode_sym_of_unused {d : Descriptor} {op : BitVec 8} {f : Sym → Instr} (hmem : (op, .sym f) ∈ commandForms)
    (hop : opField d = op) (hunused : rsvField d ≠ 0#8 ∨ nField d ≠ 0#32 ∨ valField d ≠ 0#64) :
    decode d = .illegal .reservedField := by
  rw [decode_of_mem _ hmem hop, OperandForm.decode, decodeSym, if_neg]
  simpa [imp_iff_not_or, or_assoc] using hunused

/-- R203: with these 0, SYM is checked and read. -/
theorem decode_sym_of_used {d : Descriptor} {op : BitVec 8} {f : Sym → Instr} (hmem : (op, .sym f) ∈ commandForms)
    (hop : opField d = op) (hrsv : rsvField d = 0#8) (hn : nField d = 0#32) (hval : valField d = 0#64) :
    decode d = if 256 ≤ (symField d).toNat then .illegal .symRange else .ok (f ((symField d).setWidth 8)) := by
  have hrange : symInRange d = true ↔ ¬ 256 ≤ (symField d).toNat := by
    rw [← symInRange_eq_false_iff, Bool.not_eq_false]
  rw [decode_of_mem _ hmem hop, OperandForm.decode, decodeSym, if_pos (by simp [hrsv, hn, hval]), symOperand_eq]
  simp only [hrange, ite_not]

end Sys2Proof

namespace Sys2Proof.Machine

/-- R226: with ERR = 1 every command but the two recoveries only sets DROP. -/
theorem exec_of_err (i : Instr) {s : State} (hreset : i ≠ .reset) (hack : i ≠ .errAck) (herr : s.eng.err = true) :
    exec i s = .next (s.setEng s.eng.markDropped) := by
  rw [exec_eq_runCommand hreset hack, runCommand_dropped _ _ herr]

/-- Settles O15: the body keeps the state, and the row has one descriptor, that of no bit set. -/
theorem nopCommand : Obligations.NopCommand := by
  have hdecode : ∀ d : Descriptor, opField d = 0x00#8 →
      decode d = if d = 0#128 then .ok .nop else .illegal .reservedField :=
    fun d => decode_of_plain (op := 0x00#8) (by simp [commandForms])
  exact ⟨fun _ herr => exec_of_body .nop nofun nofun herr rfl, fun _ herr => exec_of_err .nop nofun nofun herr,
    decodeOfEncode .nop, fun d hop hd => (hdecode d hop).trans (if_neg hd)⟩

/-- Settles O16: the recovery's body is the reset engine, whatever the state, and so is the host's reset. -/
theorem resetCommand : Obligations.ResetCommand :=
  ⟨runRecovery_eq fun _ => Engine.reset, fun _ => decode_of_ignored (by simp [commandForms]),
    fun _ _ => step_hostMove⟩

/-- Settles O17: the recovery's body clears the error's elements from the zeroed counters. -/
theorem errAckCommand : Obligations.ErrAckCommand :=
  ⟨runRecovery_eq Engine.ackError, fun _ => decode_of_ignored (by simp [commandForms])⟩

/-- Settles O18: the body writes TERM in the cleared tree, and the row's checks are those of SYM alone. -/
theorem setTermCommand : Obligations.SetTermCommand := by
  have hrow : (0x03#8, .sym .setTerm) ∈ commandForms := by simp [commandForms]
  exact ⟨fun _ t herr => exec_of_body (.setTerm t) nofun nofun herr rfl, fun _ => decode_sym_of_unused hrow,
    fun _ => decode_sym_of_used hrow⟩

end Sys2Proof.Machine
end

section
/-! Errors: a decoded command has the OP of its descriptor, what a descriptor does while ERR = 1, error entry, and the
commands that need a tree where there is none (60_exceptions.md R224 to R227). -/

namespace Sys2Proof

/-- Every command of the form has this OP. -/
def OperandForm.HasOpcode (op : BitVec 8) : OperandForm → Prop
  | .ignored i | .plain i => opcode i = op
  | .sym f => ∀ s, opcode (f s) = op
  | .symVal f => ∀ s v, opcode (f s v) = op
  | .count f => ∀ n, opcode (f n) = op
  | .bit f => ∀ b, opcode (f b) = op

theorem commandForms_hasOpcode : ∀ p ∈ commandForms, p.2.HasOpcode p.1 := by
  simp [commandForms, OperandForm.HasOpcode, opcode]

theorem OperandForm.Reads.opcode_eq {F : OperandForm} {op : BitVec 8} {d : Descriptor} {i : Instr}
    (h : F.Reads op d i) (hop : F.HasOpcode op) : opcode i = op := by
  cases F with
  | ignored j | plain j =>
    obtain ⟨rfl, -⟩ := h
    exact hop
  | symVal f =>
    obtain ⟨s, v, rfl, -⟩ := h
    exact hop s v
  | sym f | count f | bit f =>
    obtain ⟨a, rfl, -⟩ := h
    exact hop a

/-- R73: a valid descriptor decodes to a command of its OP. -/
theorem opField_of_decode {d : Descriptor} {i : Instr} (h : decode d = .ok i) : opField d = opcode i := by
  obtain ⟨p, hp, hreads⟩ := decode_eq_ok_iff.1 h
  rw [hreads.opcode_eq (commandForms_hasOpcode p hp)]
  exact (OperandForm.decode_eq_ok_iff.2 hreads).1

end Sys2Proof

namespace Sys2Proof.Machine

/-- R226: with ERR = 1 a descriptor, valid or not, only sets DROP, unless its OP is that of a recovery. -/
theorem issue_of_err {d : Descriptor} {s : State} (hreset : opField d ≠ opcode .reset)
    (hack : opField d ≠ opcode .errAck) (herr : s.eng.err = true) :
    issue d s = .next (s.setEng s.eng.markDropped) := by
  unfold issue
  split
  case h_1 i hdecode =>
    rw [opField_of_decode hdecode] at hreset hack
    exact exec_of_err i (ne_of_apply_ne opcode hreset) (ne_of_apply_ne opcode hack) herr
  case h_2 r _ => exact runCommand_dropped _ _ herr

/-- Settles O9: the step takes the descriptor off the port and issues it. -/
theorem droppedWhileError : Obligations.DroppedWhileError :=
  fun _ _ _ hhost herr hreset hack => (step_hostMove hhost).trans (issue_of_err hreset hack herr)

/-- Settles O10: a command that raises ends in error entry, which writes these five elements. -/
theorem errorEntryWrites : Obligations.ErrorEntryWrites :=
  fun op s code i0 i1 => finish_raised op s code i0 i1

/-- R227: with ERR = 0 and no tree, a command that needs one raises NO_TREE(OP, 0) from the zeroed counters. -/
theorem exec_of_noTree (i : Instr) {s : State} {body : State → Result} (hreset : i ≠ .reset) (hack : i ≠ .errAck)
    (herr : s.eng.err = false) (htree : s.eng.treeValid = false) (hneed : commandBody i = needTree (opcode i) body) :
    exec i s = finish (opcode i) (.raised (s.setEng s.eng.zeroCounters) .noTree (infoOp (opcode i)) 0#64) := by
  refine exec_of_body i hreset hack herr ?_
  rw [hneed, needTree_missing _ _ (by exact htree)]

/-- Settles O11: each of the five bodies asks for the tree first. -/
theorem noTreeError : Obligations.NoTreeError := by
  rintro s i herr htree (rfl | ⟨x, rfl⟩ | ⟨n, rfl⟩ | rfl | ⟨cap, rfl⟩)
  · exact exec_of_noTree .tableExport nofun nofun herr htree rfl
  · exact exec_of_noTree (.ctRead x) nofun nofun herr htree rfl
  · exact exec_of_noTree (.encode n) nofun nofun herr htree rfl
  · exact exec_of_noTree .decodeBb nofun nofun herr htree rfl
  · exact exec_of_noTree (.decodeStream cap) nofun nofun herr htree rfl

end Sys2Proof.Machine
end

section
/-! Reset, and a command that waits for ever on a stream the host withholds (70_reset_and_hazards.md R250, R259). -/

namespace Sys2Proof.Machine

/-! ### Reset (R250) -/

/-- R24, R250: reset clears the tree. -/
theorem reset_treeCleared : Engine.reset.TreeCleared := clearTree_treeCleared Engine.reset

/-- Settles O14: the two tables are empty, the tree is cleared, and every other register is a field of the reset
engine. -/
theorem resetState : Obligations.ResetState := by
  obtain ⟨hroot, hnleaves, hnnodes, htblBytes, -, hkind⟩ := reset_treeCleared
  have hfreq (x : Sym) : Engine.reset.freqV x = false ∧ Engine.reset.freqAt x = 0 := by
    simp [Engine.freqV, Engine.freqAt, Engine.reset]
  have hct (x : Sym) : Engine.reset.ctV x = false ∧ Engine.reset.ctLen x = 0 ∧ Engine.reset.ctPath x = [] := by
    simp [Engine.ctV, Engine.ctLen, Engine.ctPath, Engine.reset]
  exact ⟨hfreq, hkind, hct, fun _ => rfl, rfl, hroot, hnleaves, hnnodes, rfl, rfl, rfl, rfl, rfl, rfl, htblBytes, rfl,
    rfl, rfl, rfl⟩

theorem reset_errorRegisters : Engine.reset.ErrorRegisters := ⟨fun _ => ⟨rfl, rfl, rfl, rfl, rfl⟩, nofun⟩

/-- Both buffers are empty, ERR and the error registers are 0, and the tree is cleared. -/
theorem reset_sound : Engine.reset.Sound where
  buffer := Nat.zero_le _
  obuf := Nat.zero_le _
  errors := reset_errorRegisters
  cleared _ := ⟨reset_treeCleared, rfl⟩

/-- Settles O60: the registers are sound, and with no tree the tree invariant asks nothing. -/
theorem invariantsHoldAtReset : Obligations.InvariantsHoldAtReset := ⟨reset_sound, treeInvariant_of_noTree rfl⟩

/-! ### A withheld stream (R259) -/

/-- Filling the bit buffer from more bytes than the host gives. -/
theorem loadBuffer_stuck {n : Nat} (done : State → Result) {s : State} (hfit : 8 * n ≤ Config.bbCapBits)
    (hn : s.inp.units.length < n) (hwithheld : s.inp.tail = .withheld) : loadBuffer n done s = .stuck .stuckIn :=
  (loadBuffer_short done s hfit hn).trans (atEndOfIn_withheld _ hwithheld)

section
variable {s : State} (herr : s.eng.err = false) (htree : s.eng.treeValid = true)
include herr htree

/-- ENCODE of symbols that all have codes and fit, with SYMIN ending before the `n` symbols. -/
theorem execEncode_stuck {n : BitVec 32} (hlen : s.symIn.units.length < n.toNat) (hwithheld : s.symIn.tail = .withheld)
    (hcodes : ∀ x ∈ s.symIn.units, s.eng.ctV x = true)
    (hfit : (s.symIn.units.flatMap s.eng.ctPath).length ≤ Config.bbCapBits) :
    exec (.encode n) s = .fault .stuckSymIn := by
  have hbody := (encodeBody_short (s := s.setEng s.eng.zeroCounters) hlen (encodeText_covered hcodes hfit)).trans
    (atEndOfSym_withheld _ hwithheld)
  exact exec_of_needTree (.encode n) nofun nofun herr htree rfl hbody

/-- DECODE_STREAM whose walk still wants a bit after the bytes at hand. -/
theorem execDecodeStream_stuck {cap : BitVec 32} {w : Walk} (hwithheld : s.inp.tail = .withheld)
    (hw : walkBits (walkEnv s.eng (some cap.toNat)) (Walk.start s.eng.root) (bytesToBits s.inp.units) = .running w) :
    exec (.decodeStream cap) s = .fault .stuckIn := by
  have hbody := (decodeStreamBody_of_walk (s := s.setEng s.eng.zeroCounters) hw).trans (atEndOfIn_withheld _ hwithheld)
  exact exec_of_needTree (.decodeStream cap) nofun nofun herr htree rfl hbody

end

/-- Settles O26: the two loads and ENCODE run out of units, and the walk of DECODE_STREAM out of bits, at its start or
inside a path. -/
theorem stuckOnWithheldStream : Obligations.StuckOnWithheldStream := by
  refine ⟨fun s n herr hfit hn hwithheld => ⟨?_, ?_⟩, fun s n herr htree hlen hwithheld hcodes hfit => ?_,
    fun s cap herr htree hnone hwithheld => ?_, fun s cap text p h herr htree hU hd hroom hcap hp hbits hwithheld => ?_⟩
  · exact exec_of_body (.bbLoad n) nofun nofun herr (loadBuffer_stuck _ hfit hn hwithheld)
  · exact execTableImport_of_loadBuffer herr (loadBuffer_stuck importStaged hfit hn hwithheld)
  · exact execEncode_stuck herr htree hlen hwithheld hcodes hfit
  · have hw : walkBits (walkEnv s.eng (some cap.toNat)) (Walk.start s.eng.root) (bytesToBits s.inp.units) =
        .running (Walk.start s.eng.root) := by rw [hnone]; rfl
    exact execDecodeStream_stuck herr htree hwithheld hw
  · have hw := walkBits_endsInside (cap := some cap.toNat) hU hd hroom (by simpa using hcap) hp
    rw [← hbits] at hw
    exact execDecodeStream_stuck herr htree hwithheld hw

end Sys2Proof.Machine
end
